-- ==== Sys2Proof/Word.lean ====
section
/-! DEFINITION. The word types of the block: bytes, 16-bit addresses, 64-bit command words and 32-bit
frame-buffer entries (spec 00_scope.md R6, R8; 30_encoding.md R200). -/

namespace Sys2Proof

/-- `u8` of R8: a register's value, a byte on a port. -/
abbrev Byte := BitVec 8

/-- `u16` of R8: an address of the register bus, of the PPU space or of program memory. -/
abbrev Addr := BitVec 16

/-- One command word, 64 bits with bit 63 the most significant (R200). -/
abbrev Command := BitVec 64

/-- One frame-buffer entry, `PIXEL_BITS` = 32 bits (R6, R87). -/
abbrev Pixel := BitVec 32

end Sys2Proof
end

