-- ==== Sys2Proof/Machine/Layout.lean ====
section
/-! DEFINITION. The register map of 10_state.md R60 and the field layouts of R61, R63 and R70, with the
construction-time check of R57 and 60_exceptions.md R452. -/

namespace Sys2Proof.Machine

/-- The twelve mapped registers (R60). -/
inductive RegName where
  | ppuctrl | ppumask | ppustatus | oamaddr | oamdata | ppuscroll | ppuaddr | ppudata | oamdma
  | dmcCtrl | dmcAddr | dmcLen
  deriving DecidableEq, Repr

/-- Every mapped register, in the order of R60. -/
def RegName.all : List RegName :=
  [.ppuctrl, .ppumask, .ppustatus, .oamaddr, .oamdata, .ppuscroll, .ppuaddr, .ppudata, .oamdma,
   .dmcCtrl, .dmcAddr, .dmcLen]

/-- The register-bus address of each register (R60). -/
def RegName.addr : RegName → Addr
  | .ppuctrl => 0x2000
  | .ppumask => 0x2001
  | .ppustatus => 0x2002
  | .oamaddr => 0x2003
  | .oamdata => 0x2004
  | .ppuscroll => 0x2005
  | .ppuaddr => 0x2006
  | .ppudata => 0x2007
  | .oamdma => 0x4014
  | .dmcCtrl => 0x4010
  | .dmcAddr => 0x4012
  | .dmcLen => 0x4013

/-- Register-bus decode: the register whose address is exactly `a`, with no mirroring (R152). -/
def RegName.ofAddr (a : Addr) : Option RegName := RegName.all.find? fun r => r.addr == a

/-- Some register occupies the bus address `a` (R152). -/
def mapped (a : Addr) : Bool := (RegName.ofAddr a).isSome

/-- The named fields of the register layouts. -/
inductive FieldName where
  | ntId | inc | sprPt | bgPt | sprSize | nmiEn
  | sprOverflow | spr0Hit | vblank
  | rate | loop
  deriving DecidableEq, Repr

/-- A field descriptor (R53): a bit range of one register. -/
structure Field where
  reg : RegName
  name : FieldName
  bitOffset : Nat
  bitWidth : Nat
  writable : Bool
  deriving DecidableEq, Repr

/-- PPUCTRL 1:0, name-table id (R61). -/
def Field.ntId : Field := ⟨.ppuctrl, .ntId, 0, 2, true⟩
/-- PPUCTRL 2, address increment step (R61). -/
def Field.inc : Field := ⟨.ppuctrl, .inc, 2, 1, true⟩
/-- PPUCTRL 3, pattern table of 8×8 sprites (R61). -/
def Field.sprPt : Field := ⟨.ppuctrl, .sprPt, 3, 1, true⟩
/-- PPUCTRL 4, pattern table of the background (R61). -/
def Field.bgPt : Field := ⟨.ppuctrl, .bgPt, 4, 1, true⟩
/-- PPUCTRL 5, sprite size (R61). -/
def Field.sprSize : Field := ⟨.ppuctrl, .sprSize, 5, 1, true⟩
/-- PPUCTRL 7, NMI-on-VBlank enable (R61). -/
def Field.nmiEn : Field := ⟨.ppuctrl, .nmiEn, 7, 1, true⟩
/-- PPUSTATUS 5, read-only (R63). -/
def Field.sprOverflow : Field := ⟨.ppustatus, .sprOverflow, 5, 1, false⟩
/-- PPUSTATUS 6, read-only (R63). -/
def Field.spr0Hit : Field := ⟨.ppustatus, .spr0Hit, 6, 1, false⟩
/-- PPUSTATUS 7, read-only (R63). -/
def Field.vblank : Field := ⟨.ppustatus, .vblank, 7, 1, false⟩
/-- DMC_CTRL 3:0, index into DPCM_PERIODS (R70). -/
def Field.rate : Field := ⟨.dmcCtrl, .rate, 0, 4, true⟩
/-- DMC_CTRL 6, re-arm at natural completion (R70). -/
def Field.loop : Field := ⟨.dmcCtrl, .loop, 6, 1, true⟩

/-- The fields each register declares (R61 to R72); a register not named here has none. -/
def RegName.fields : RegName → List Field
  | .ppuctrl => [.ntId, .inc, .sprPt, .bgPt, .sprSize, .nmiEn]
  | .ppustatus => [.sprOverflow, .spr0Hit, .vblank]
  | .dmcCtrl => [.rate, .loop]
  | _ => []

/-- The two fields share a bit (R57): the later start lies before the earlier end, so a field of width 0
shares none. -/
def Field.overlaps (f g : Field) : Bool :=
  max f.bitOffset g.bitOffset < min (f.bitOffset + f.bitWidth) (g.bitOffset + g.bitWidth)

/-- The declaration itself is valid: not of width 0, not past bit 7 (R452). -/
def Field.valid (f : Field) : Bool := 0 < f.bitWidth && f.bitOffset + f.bitWidth ≤ 8

/-- The first layout error of a list of fields of one register (R452). DESIGN CHOICE (log entry 11), since
R452 does not say which error is recorded or what two names an invalid field records: the fields are taken
in order, and for each its own validity comes before its overlaps; an invalid field is named twice, a pair
that shares a bit is named earlier field first, and the earliest later partner is the one named. -/
def firstOverlap : List Field → Option (FieldName × FieldName)
  | [] => none
  | f :: rest =>
    if f.valid then
      match rest.find? (f.overlaps ·) with
      | some g => some (f.name, g.name)
      | none => firstOverlap rest
    else some (f.name, f.name)

/-- The first layout error of a list of registers with their fields: the register's address and the
two field names (R452). That the registers are taken in order is the model's choice (log entry 11). -/
def layoutError : List (RegName × List Field) → Option (Addr × FieldName × FieldName)
  | [] => none
  | (r, fs) :: rest =>
    match firstOverlap fs with
    | some (f, g) => some (r.addr, f, g)
    | none => layoutError rest

/-- The check made when the block is built, over this spec's own layouts (R57, R452). -/
def layoutCheck : Option (Addr × FieldName × FieldName) :=
  layoutError (RegName.all.map fun r => (r, r.fields))

end Sys2Proof.Machine
end

