-- ==== Sys2Proof/Syntax.lean ====
section
/-! DEFINITION. The instructions: one constructor per row of spec/opcode_table.json (30_encoding.md R204),
in the table's order, each with the operand fields of its format (R201, R202). -/

namespace Sys2Proof

/-- The 34 commands of R204. A register-bus command names its register by its constructor; the two
UNMAPPED rows carry the address A, every WR row carries the datum D. -/
inductive Instr where
  | rdCtrl
  | rdMask
  | rdStatus
  | rdOamaddr
  | rdOamdata
  | rdScroll
  | rdAddr
  | rdData
  | rdOamdma
  | rdDmcCtrl
  | rdDmcAddr
  | rdDmcLen
  | rdUnmapped (a : Addr)
  | wrCtrl (d : Byte)
  | wrMask (d : Byte)
  | wrStatus (d : Byte)
  | wrOamaddr (d : Byte)
  | wrOamdata (d : Byte)
  | wrScroll (d : Byte)
  | wrAddr (d : Byte)
  | wrData (d : Byte)
  | wrOamdma (d : Byte)
  | wrDmcCtrl (d : Byte)
  | wrDmcAddr (d : Byte)
  | wrDmcLen (d : Byte)
  | wrUnmapped (d : Byte) (a : Addr)
  | step
  | plot (x y : Byte) (c : Pixel)
  | tile (t : BitVec 1) (n : Byte) (r x : BitVec 3)
  | dupd
  | dstart
  | dstop
  | drem
  | reset
  deriving DecidableEq, Repr

end Sys2Proof
end

