-- ==== Sys2Proof/WellFormed.lean ====
section
/-! DEFINITION. Which instruction terms have a word of their own (30_encoding.md R202, R204). -/

namespace Sys2Proof

/-- Every operand has exactly the width of its field (R202), so the one check left is that of R204: an
UNMAPPED command's address names no mapped register. -/
def Instr.wf : Instr → Bool
  | .rdUnmapped a => !Machine.mapped a
  | .wrUnmapped _ a => !Machine.mapped a
  | .rdCtrl => true
  | .rdMask => true
  | .rdStatus => true
  | .rdOamaddr => true
  | .rdOamdata => true
  | .rdScroll => true
  | .rdAddr => true
  | .rdData => true
  | .rdOamdma => true
  | .rdDmcCtrl => true
  | .rdDmcAddr => true
  | .rdDmcLen => true
  | .wrCtrl _ => true
  | .wrMask _ => true
  | .wrStatus _ => true
  | .wrOamaddr _ => true
  | .wrOamdata _ => true
  | .wrScroll _ => true
  | .wrAddr _ => true
  | .wrData _ => true
  | .wrOamdma _ => true
  | .wrDmcCtrl _ => true
  | .wrDmcAddr _ => true
  | .wrDmcLen _ => true
  | .step => true
  | .plot _ _ _ => true
  | .tile _ _ _ _ => true
  | .dupd => true
  | .dstart => true
  | .dstop => true
  | .drem => true
  | .reset => true

end Sys2Proof
end

