-- ==== Sys2Proof/Decode.lean ====
section
/-! DEFINITION. The decoder of 30_encoding.md R205, total on all 64-bit words, written from the match and
mask table of R204; the reasons of an ILLEGAL word (R206); and the encoder, from the formats of R201. -/

namespace Sys2Proof

open Machine (RegName)

/-- Why a word is ILLEGAL (R206). Case (3) of R206, a word with a listed OP and no reserved bit set that
matches no row, has no instance (log entry 14). -/
inductive Illegal where
  /-- Case (1): OP is not in R203. -/
  | reservedOpcode
  /-- Case (2): OP is listed and a reserved bit of its format is 1. -/
  | reservedBits
  deriving DecidableEq, Repr

/-- What the decoder answers for a word: an instruction, or a rejection by name. -/
inductive Decoded where
  | instr (i : Instr)
  | illegal (why : Illegal)
  deriving DecidableEq, Repr

/-- One row of R204: a word `w` selects it when `w &&& mask = pattern`; `build` reads the operands. -/
structure Row where
  pattern : Command
  mask : Command
  build : Command → Instr

/-- Operand fields of R201 and R202, each an unsigned field of the word. -/
def fieldA (w : Command) : Addr := w.extractLsb' 0 16
/-- D of format AD. -/
def fieldD (w : Command) : Byte := w.extractLsb' 16 8
/-- Y of format P. -/
def fieldY (w : Command) : Byte := w.extractLsb' 48 8
/-- X of format P. -/
def fieldPX (w : Command) : Byte := w.extractLsb' 40 8
/-- C of format P. -/
def fieldC (w : Command) : Pixel := w.extractLsb' 0 32
/-- T of format T. -/
def fieldT (w : Command) : BitVec 1 := w.extractLsb' 48 1
/-- N of format T. -/
def fieldN (w : Command) : Byte := w.extractLsb' 40 8
/-- R of format T. -/
def fieldR (w : Command) : BitVec 3 := w.extractLsb' 8 3
/-- X of format T. -/
def fieldTX (w : Command) : BitVec 3 := w.extractLsb' 0 3
/-- OP of every format (R200). -/
def fieldOp (w : Command) : Byte := w.extractLsb' 56 8

/-- The RD rows of R204 with a mapped address. -/
def readRows : List Row :=
  [ ⟨0x0100000000002000, 0xFFFFFFFFFFFFFFFF, fun _ => .rdCtrl⟩,
    ⟨0x0100000000002001, 0xFFFFFFFFFFFFFFFF, fun _ => .rdMask⟩,
    ⟨0x0100000000002002, 0xFFFFFFFFFFFFFFFF, fun _ => .rdStatus⟩,
    ⟨0x0100000000002003, 0xFFFFFFFFFFFFFFFF, fun _ => .rdOamaddr⟩,
    ⟨0x0100000000002004, 0xFFFFFFFFFFFFFFFF, fun _ => .rdOamdata⟩,
    ⟨0x0100000000002005, 0xFFFFFFFFFFFFFFFF, fun _ => .rdScroll⟩,
    ⟨0x0100000000002006, 0xFFFFFFFFFFFFFFFF, fun _ => .rdAddr⟩,
    ⟨0x0100000000002007, 0xFFFFFFFFFFFFFFFF, fun _ => .rdData⟩,
    ⟨0x0100000000004014, 0xFFFFFFFFFFFFFFFF, fun _ => .rdOamdma⟩,
    ⟨0x0100000000004010, 0xFFFFFFFFFFFFFFFF, fun _ => .rdDmcCtrl⟩,
    ⟨0x0100000000004012, 0xFFFFFFFFFFFFFFFF, fun _ => .rdDmcAddr⟩,
    ⟨0x0100000000004013, 0xFFFFFFFFFFFFFFFF, fun _ => .rdDmcLen⟩ ]

/-- The WR rows of R204 with a mapped address. -/
def writeRows : List Row :=
  [ ⟨0x0200000000002000, 0xFFFFFFFFFF00FFFF, fun w => .wrCtrl (fieldD w)⟩,
    ⟨0x0200000000002001, 0xFFFFFFFFFF00FFFF, fun w => .wrMask (fieldD w)⟩,
    ⟨0x0200000000002002, 0xFFFFFFFFFF00FFFF, fun w => .wrStatus (fieldD w)⟩,
    ⟨0x0200000000002003, 0xFFFFFFFFFF00FFFF, fun w => .wrOamaddr (fieldD w)⟩,
    ⟨0x0200000000002004, 0xFFFFFFFFFF00FFFF, fun w => .wrOamdata (fieldD w)⟩,
    ⟨0x0200000000002005, 0xFFFFFFFFFF00FFFF, fun w => .wrScroll (fieldD w)⟩,
    ⟨0x0200000000002006, 0xFFFFFFFFFF00FFFF, fun w => .wrAddr (fieldD w)⟩,
    ⟨0x0200000000002007, 0xFFFFFFFFFF00FFFF, fun w => .wrData (fieldD w)⟩,
    ⟨0x0200000000004014, 0xFFFFFFFFFF00FFFF, fun w => .wrOamdma (fieldD w)⟩,
    ⟨0x0200000000004010, 0xFFFFFFFFFF00FFFF, fun w => .wrDmcCtrl (fieldD w)⟩,
    ⟨0x0200000000004012, 0xFFFFFFFFFF00FFFF, fun w => .wrDmcAddr (fieldD w)⟩,
    ⟨0x0200000000004013, 0xFFFFFFFFFF00FFFF, fun w => .wrDmcLen (fieldD w)⟩ ]

/-- The rows of R204 of formats N, P and T. -/
def unitRows : List Row :=
  [ ⟨0x1000000000000000, 0xFFFFFFFFFFFFFFFF, fun _ => .step⟩,
    ⟨0x1100000000000000, 0xFF0000FF00000000, fun w => .plot (fieldPX w) (fieldY w) (fieldC w)⟩,
    ⟨0x1200000000000000, 0xFFFE00FFFFFFF8F8,
      fun w => .tile (fieldT w) (fieldN w) (fieldR w) (fieldTX w)⟩,
    ⟨0x2000000000000000, 0xFFFFFFFFFFFFFFFF, fun _ => .dupd⟩,
    ⟨0x2100000000000000, 0xFFFFFFFFFFFFFFFF, fun _ => .dstart⟩,
    ⟨0x2200000000000000, 0xFFFFFFFFFFFFFFFF, fun _ => .dstop⟩,
    ⟨0x2300000000000000, 0xFFFFFFFFFFFFFFFF, fun _ => .drem⟩,
    ⟨0x3000000000000000, 0xFFFFFFFFFFFFFFFF, fun _ => .reset⟩ ]

/-- Every row of R204 but the two UNMAPPED rows: the rows the loop of R205 tries. -/
def rows : List Row := readRows ++ writeRows ++ unitRows

/-- The RD.UNMAPPED row of R204, of the lowest priority. -/
def rdUnmappedRow : Row := ⟨0x0100000000000000, 0xFFFFFFFFFFFF0000, fun w => .rdUnmapped (fieldA w)⟩

/-- The WR.UNMAPPED row of R204, of the lowest priority. -/
def wrUnmappedRow : Row :=
  ⟨0x0200000000000000, 0xFFFFFFFFFF000000, fun w => .wrUnmapped (fieldD w) (fieldA w)⟩

/-- The word selects the row (R204). -/
def Row.selects (r : Row) (w : Command) : Bool := w &&& r.mask == r.pattern

/-- The OP values of R203. -/
def opcodes : List Byte := [0x01, 0x02, 0x10, 0x11, 0x12, 0x20, 0x21, 0x22, 0x23, 0x30]

/-- Which case of R206 makes a word that no row accepts ILLEGAL. -/
def illegalReason (w : Command) : Illegal :=
  if opcodes.contains (fieldOp w) then .reservedBits else .reservedOpcode

/-- The decoder of R205. -/
def decode (w : Command) : Decoded :=
  match rows.find? (·.selects w) with
  | some r => .instr (r.build w)
  | none =>
    if rdUnmappedRow.selects w then .instr (rdUnmappedRow.build w)
    else if wrUnmappedRow.selects w then .instr (wrUnmappedRow.build w)
    else .illegal (illegalReason w)

/-- Format N of R201: `| OP | 0 (55:0) |`. -/
def formatN (op : Byte) : Command := op ++ (0 : BitVec 56)
/-- Format A of R201: `| OP | 0 (55:16) | A |`. -/
def formatA (op : Byte) (a : Addr) : Command := op ++ (0 : BitVec 40) ++ a
/-- Format AD of R201: `| OP | 0 (55:24) | D | A |`. -/
def formatAD (op : Byte) (d : Byte) (a : Addr) : Command := op ++ (0 : BitVec 32) ++ d ++ a
/-- Format P of R201: `| OP | Y | X | 0 (39:32) | C |`. -/
def formatP (op : Byte) (y x : Byte) (c : Pixel) : Command := op ++ y ++ x ++ (0 : BitVec 8) ++ c
/-- Format T of R201: `| OP | 0 (55:49) | T | N | 0 (39:11) | R | 0 (7:3) | X |`. -/
def formatT (op : Byte) (t : BitVec 1) (n : Byte) (r x : BitVec 3) : Command :=
  op ++ (0 : BitVec 7) ++ t ++ n ++ (0 : BitVec 29) ++ r ++ (0 : BitVec 5) ++ x

/-- The word of an instruction, from the formats of R201, the opcodes of R203 and the addresses of
R60. -/
def encode : Instr → Command
  | .rdCtrl => formatA 0x01 (RegName.addr .ppuctrl)
  | .rdMask => formatA 0x01 (RegName.addr .ppumask)
  | .rdStatus => formatA 0x01 (RegName.addr .ppustatus)
  | .rdOamaddr => formatA 0x01 (RegName.addr .oamaddr)
  | .rdOamdata => formatA 0x01 (RegName.addr .oamdata)
  | .rdScroll => formatA 0x01 (RegName.addr .ppuscroll)
  | .rdAddr => formatA 0x01 (RegName.addr .ppuaddr)
  | .rdData => formatA 0x01 (RegName.addr .ppudata)
  | .rdOamdma => formatA 0x01 (RegName.addr .oamdma)
  | .rdDmcCtrl => formatA 0x01 (RegName.addr .dmcCtrl)
  | .rdDmcAddr => formatA 0x01 (RegName.addr .dmcAddr)
  | .rdDmcLen => formatA 0x01 (RegName.addr .dmcLen)
  | .rdUnmapped a => formatA 0x01 a
  | .wrCtrl d => formatAD 0x02 d (RegName.addr .ppuctrl)
  | .wrMask d => formatAD 0x02 d (RegName.addr .ppumask)
  | .wrStatus d => formatAD 0x02 d (RegName.addr .ppustatus)
  | .wrOamaddr d => formatAD 0x02 d (RegName.addr .oamaddr)
  | .wrOamdata d => formatAD 0x02 d (RegName.addr .oamdata)
  | .wrScroll d => formatAD 0x02 d (RegName.addr .ppuscroll)
  | .wrAddr d => formatAD 0x02 d (RegName.addr .ppuaddr)
  | .wrData d => formatAD 0x02 d (RegName.addr .ppudata)
  | .wrOamdma d => formatAD 0x02 d (RegName.addr .oamdma)
  | .wrDmcCtrl d => formatAD 0x02 d (RegName.addr .dmcCtrl)
  | .wrDmcAddr d => formatAD 0x02 d (RegName.addr .dmcAddr)
  | .wrDmcLen d => formatAD 0x02 d (RegName.addr .dmcLen)
  | .wrUnmapped d a => formatAD 0x02 d a
  | .step => formatN 0x10
  | .plot x y c => formatP 0x11 y x c
  | .tile t n r x => formatT 0x12 t n r x
  | .dupd => formatN 0x20
  | .dstart => formatN 0x21
  | .dstop => formatN 0x22
  | .drem => formatN 0x23
  | .reset => formatN 0x30

/-- The instruction the decoder reads from the word whose bits are `w`. Every row of the opcode table is
one 64-bit word (R200) whose bit 0 is the number's bit 0, so `nbits` selects nothing. A number of more
than 64 bits is no word. -/
def decodeTableWord (_nbits w : Nat) : Option Instr :=
  if w < 2 ^ 64 then
    match decode (BitVec.ofNat 64 w) with
    | .instr i => some i
    | .illegal _ => none
  else none

end Sys2Proof
end

