-- ==== Sys2Proof/Machine/BitOps.lean ====
section
/-! DEFINITION. The bit-manipulation primitives of 00_scope.md section 6 (R20 to R26), as total functions
on mathematical integers. -/

namespace Sys2Proof.Machine.BitOps

/-- R21: `x mod 256`, for any integer. -/
def toUnsigned8 (x : Int) : Nat := (x % 256).toNat

/-- R21: `x mod 65536`, for any integer. -/
def toUnsigned16 (x : Int) : Nat := (x % 65536).toNat

/-- R22: the value −128..127 that agrees with `x` mod 256. -/
def toSigned8 (x : Int) : Int := if x % 256 ≥ 128 then x % 256 - 256 else x % 256

/-- `n & ~m` of R7 for n, m ≥ 0: the bits of `n` outside `m`. -/
def andNot (n m : Nat) : Nat := n ^^^ (n &&& m)

/-- R23: bit `pos` of `n`. -/
def getBit (n pos : Nat) : Nat := (n >>> pos) &&& 1

/-- R23: `n` with bit `pos` replaced by the low bit of `val`. -/
def setBit (n pos val : Nat) : Nat := andNot n (1 <<< pos) ||| ((val &&& 1) <<< pos)

/-- R24: the field of `size` bits of `n` that begins at bit `start`. -/
def getBits (n start size : Nat) : Nat := (n >>> start) &&& ((1 <<< size) - 1)

/-- R24: `n` with that field replaced by the low `size` bits of `val`. -/
def setBits (n start size val : Nat) : Nat :=
  andNot n (((1 <<< size) - 1) <<< start) ||| ((val &&& ((1 <<< size) - 1)) <<< start)

/-- R25. -/
def highByte (n : Nat) : Nat := (n >>> 8) &&& 0xFF

/-- R25. -/
def lowByte (n : Nat) : Nat := n &&& 0xFF

/-- R25: both arguments masked to a byte, `hi` in the high half. -/
def buildU16 (hi lo : Nat) : Nat := ((hi &&& 0xFF) <<< 8) ||| (lo &&& 0xFF)

/-- R26: both arguments masked to a bit, `hi` in bit 1. -/
def buildU2 (hi lo : Nat) : Nat := ((hi &&& 1) <<< 1) ||| (lo &&& 1)

end Sys2Proof.Machine.BitOps
end

