-- ==== Sys2Proof/Machine/Operands.lean ====
section
/-! DEFINITION. The addresses the operations compute: the PPU-space decoder with its mirrors
(20_memory.md R155), tile rows (40_ppu_engine.md R261), frame-buffer indexes (R270), OAM-DMA sources
(41_ppu_registers.md R329) and sample addresses (42_dpcm.md R416, R421). -/

namespace Sys2Proof.Machine

/-- What a PPU-space address resolves to (R155). -/
inductive Target where
  | map | nt | pal | none
  deriving DecidableEq, Repr

/-- The ranges of R155 that are not mirrors. -/
def resolveDirect (a : Nat) : Target × Nat :=
  if a ≤ 0x1FFF then (.map, a)
  else if 0x2000 ≤ a ∧ a ≤ 0x2FFF then (.nt, a)
  else if 0x3F00 ≤ a ∧ a ≤ 0x3F1F then (.pal, a)
  else (.none, a)

/-- `resolve` of R155. R156: a mirror resolves in one hop, so the recursive call of the spec is a call of
`resolveDirect`. -/
def resolveNat (a : Nat) : Target × Nat :=
  if 0x3000 ≤ a ∧ a ≤ 0x3EFF then resolveDirect (0x2000 + (a - 0x3000) % 0x1000)
  else if 0x3F20 ≤ a ∧ a ≤ 0x3FFF then resolveDirect (0x3F00 + (a - 0x3F20) % 0x0020)
  else resolveDirect a

/-- `resolve` on a u16 address. -/
def resolve (a : Addr) : Target × Addr :=
  ((resolveNat a.toNat).1, BitVec.ofNat 16 (resolveNat a.toNat).2)

/-- R261: `patternTableId*4096 + tileId*16`. -/
def tileBase (t : BitVec 1) (n : Byte) : Nat := t.toNat * 4096 + n.toNat * 16

/-- R261: the address of the low-plane row `r`. -/
def tileLow (t : BitVec 1) (n : Byte) (r : BitVec 3) : Addr := BitVec.ofNat 16 (tileBase t n + r.toNat)

/-- R261: the address of the high-plane row `r`. -/
def tileHigh (t : BitVec 1) (n : Byte) (r : BitVec 3) : Addr :=
  BitVec.ofNat 16 (tileBase t n + r.toNat + 8)

/-- R262: the colour index of column `x` from the two row bytes. -/
def colorIndex (hi lo : Byte) (x : BitVec 3) : BitVec 2 :=
  BitVec.ofNat 2 (BitOps.buildU2 (BitOps.getBit hi.toNat (7 - x.toNat)) (BitOps.getBit lo.toNat (7 - x.toNat)))

/-- R270: the frame-buffer index of pixel (x, y). -/
def pixelIndex (x y : Byte) : Nat := y.toNat * 256 + x.toNat

/-- R329: the i-th source address of an OAM-DMA from page `p`. -/
def dmaSource (p : Byte) (i : Nat) : Addr := BitVec.ofNat 16 (p.toNat * 0x100 + i)

/-- R329: the i-th destination index of an OAM-DMA. -/
def dmaDest (oamaddr : Byte) (i : Nat) : Nat := (oamaddr.toNat + i) % 256

/-- R416: `0xC000 + DMC_ADDR.value * 64`. -/
def startAddress (v : Byte) : Addr := BitVec.ofNat 16 (0xC000 + v.toNat * 64)

/-- R416: `DMC_LEN.value * 16 + 1`. -/
def startLength (v : Byte) : Nat := v.toNat * 16 + 1

/-- R421: the fetch address, with the sum not truncated and the wrap `mod 0xFFFF`. -/
def fetchAddr (sa cb : Int) : Int :=
  if sa + cb > 0xFFFF then 0x8000 + (sa + cb) % 0xFFFF else sa + cb

end Sys2Proof.Machine
end

