-- ==== Sys2Proof/Config.lean ====
section
/-! DEFINITION. What an implementation fixes (the parameters of 00_scope.md R6) and the one free value
(the answers of the collaborators, 60_exceptions.md R470). -/

namespace Sys2Proof

/-- The ports a read is answered on (20_memory.md R165 to R167). -/
inductive Port where
  | map | nt | pal | prg
  deriving DecidableEq, Repr

/-- FREE VALUE (log entry 2): the byte a collaborator answers to the n-th read drawn from it, on a port
at an address. R470: a collaborator may answer "any byte for any read". -/
opaque Config.answer : Nat → Port → Addr → Byte

/-- An entry of DPCM_PERIODS: R401 allows 1..65535 and refuses 0 when the model is configured. -/
abbrev Period := { p : Nat // 1 ≤ p ∧ p ≤ 65535 }

/-- The parameters of R6 that a rule of the block reads. -/
structure Params where
  /-- P_UNMAPPED_READ (R6, R152, R157). -/
  unmappedRead : Byte
  /-- DPCM_PERIODS (R6, R401). -/
  periods : Vector Period 16
  deriving DecidableEq, Repr

/-- The default values the spec gives them: 0x00 (R6) and the list of R401 (log entry 5). -/
def Params.default : Params where
  unmappedRead := 0x00
  periods := #v[⟨428, by decide⟩, ⟨380, by decide⟩, ⟨340, by decide⟩, ⟨320, by decide⟩,
    ⟨286, by decide⟩, ⟨254, by decide⟩, ⟨226, by decide⟩, ⟨214, by decide⟩,
    ⟨190, by decide⟩, ⟨160, by decide⟩, ⟨142, by decide⟩, ⟨128, by decide⟩,
    ⟨106, by decide⟩, ⟨84, by decide⟩, ⟨72, by decide⟩, ⟨54, by decide⟩]

end Sys2Proof
end

