-- ==== Sys2Proof/Machine/State.lean ====
section
/-! DEFINITION. The state of the block (10_state.md), the reasons a step can stop, and the state after
power-on (10_state.md R110, 70_reset_and_hazards.md R501). -/

namespace Sys2Proof.Machine

/-- The stored `value` of each mapped register (R52, R60). -/
structure Regs where
  ppuctrl : Byte
  ppumask : Byte
  ppustatus : Byte
  oamaddr : Byte
  oamdata : Byte
  ppuscroll : Byte
  ppuaddr : Byte
  ppudata : Byte
  oamdma : Byte
  dmcCtrl : Byte
  dmcAddr : Byte
  dmcLen : Byte
  deriving DecidableEq, Repr

/-- The AddressLatch (R83). -/
structure Latch where
  address : Addr
  pendingHighByte : Bool
  deriving DecidableEq, Repr

/-- The events of 20_memory.md R175. The snapshot of a Frame event is the frame buffer's list of entries
other than 0, which stands for all 61440 entries (log entry 9). -/
inductive Event where
  | mapRead (a : Addr) (v : Byte)
  | mapWrite (a : Addr) (v : Byte)
  | ntRead (a : Addr) (v : Byte)
  | ntWrite (a : Addr) (v : Byte)
  | palRead (a : Addr) (v : Byte)
  | palWrite (a : Addr) (v : Byte)
  | prgRead (a : Addr) (v : Byte)
  | frame (n : Nat) (snapshot : List (Nat × Pixel))
  deriving DecidableEq, Repr

/-- The fault codes of 60_exceptions.md section 2, each with the value it records. -/
inductive FaultRecord where
  /-- Code 1, R451: the ILLEGAL word. -/
  | illegalCommand (w : Command)
  /-- Code 2, R453: the PLOT word and its (x, y). -/
  | plotOutOfRange (w : Command) (x y : Byte)
  /-- Code 3, R452: the register's address and the two field names. -/
  | fieldOverlap (a : Addr) (f g : FieldName)
  deriving DecidableEq, Repr

/-- What the last command returned to the driver (R203 result column, R470): the model's own field. -/
inductive Result where
  | nothing
  | u8 (v : Byte)
  | u2 (v : BitVec 2)
  | u32 (v : BitVec 32)
  deriving DecidableEq, Repr

/-- Why a step stops the machine. -/
inductive Fault where
  /-- Raised by `step`, and by nothing else, in a state whose `fault` is set: the run has ended faulted and
  the block has no further step (R455). Safe: the spec gives such a state no step. -/
  | halted (f : FaultRecord)
  deriving DecidableEq, Repr

/-- Why an instruction has no meaning in the model. -/
inductive Refusal where
  /-- Answered by an arm of `exec` for an instruction the model gives no meaning yet; no arm does. Safe. -/
  | notModelled (mnemonic : String)
  deriving DecidableEq, Repr

/-- All state of the block. Fields with a bound the type does not say (R80, R81, R92 to R97) keep it by
the invariant `State.Inv` of Safety.lean; the last five fields are the model's own. -/
structure State where
  /-- The twelve mapped registers (R60). -/
  regs : Regs
  /-- Video cycle, 0..340 (R80). -/
  cycle : Nat
  /-- Scanline, −1..260 (R81). -/
  scanline : Int
  /-- Frame counter, unbounded (R82). -/
  frame : Nat
  /-- The AddressLatch (R83). -/
  latch : Latch
  /-- Scroll bytes (R84). -/
  scrollX : Byte
  scrollY : Byte
  /-- The delayed-read byte of PPUDATA (R85). -/
  readBuffer : Byte
  /-- OAM, 256 bytes (R86): the entries other than 0, by rising index. -/
  oam : List Host.Cell
  /-- The frame buffer, 61440 entries (R87): the entries other than 0, by rising index. -/
  frameBuffer : List (Nat × Pixel)
  /-- R90. -/
  isActive : Bool
  /-- R91. -/
  startPending : Bool
  /-- u16 (R92). -/
  dividerPeriod : Nat
  /-- u16 (R92). -/
  dividerCount : Nat
  /-- i32 in −1..sampleLength (R93). -/
  cursorByte : Int
  /-- 0..8 (R94). -/
  cursorBit : Nat
  /-- u16 (R95). -/
  sampleAddress : Addr
  /-- u32 (R95). -/
  sampleLength : Nat
  /-- The sample byte being played; none is EMPTY (R96). -/
  buffer : Option Byte
  /-- The delta accumulator, an unbounded integer (R97). -/
  output : Int
  /-- The events emitted, oldest first (R102). -/
  history : List Event
  /-- R103. -/
  fault : Option FaultRecord
  /-- The last command's result (log entry 4). -/
  result : Result
  /-- The driver's commands the block has not yet accepted, next first (log entry 1). -/
  commands : List Command
  /-- The collaborators' next read answers, next first (log entry 2). -/
  answers : List Byte
  /-- How many answers were drawn from `Config.answer` (log entry 2). -/
  draws : Nat
  /-- The configured parameters, which no command changes (log entry 5). -/
  params : Params
  deriving DecidableEq, Repr

/-- Every register at 0x00 (R110). -/
def Regs.zero : Regs where
  ppuctrl := 0x00
  ppumask := 0x00
  ppustatus := 0x00
  oamaddr := 0x00
  oamdata := 0x00
  ppuscroll := 0x00
  ppuaddr := 0x00
  ppudata := 0x00
  oamdma := 0x00
  dmcCtrl := 0x00
  dmcAddr := 0x00
  dmcLen := 0x00

/-- The power-on state (R110, R501). `fault` is the outcome of the layout check, which runs before the
first command (R452) and passes. -/
def State.reset : State where
  regs := Regs.zero
  cycle := 0
  scanline := -1
  frame := 0
  latch := ⟨0x0000, true⟩
  scrollX := 0x00
  scrollY := 0x00
  readBuffer := 0x00
  oam := []
  frameBuffer := []
  isActive := false
  startPending := false
  dividerPeriod := 0
  dividerCount := 0
  cursorByte := -1
  cursorBit := 0
  sampleAddress := 0
  sampleLength := 0
  buffer := none
  output := 0
  history := []
  fault := layoutCheck.map fun e => .fieldOverlap e.1 e.2.1 e.2.2
  result := .nothing
  commands := []
  answers := []
  draws := 0
  params := Params.default

end Sys2Proof.Machine
end

