-- ==== Sys2Proof/Machine/Ops.lean ====
section
/-! DEFINITION. The named operations every meaning is written with: the block's own memories, registers
through `setValue`, results, events, ports, the PPU space, raising a fault, and accepting a command. -/

namespace Sys2Proof.Machine

/-! ### The block's own memories (OAM and the frame buffer) -/

/-- What an unlisted entry reads as: 0, the reset contents of OAM and of the frame buffer (R86, R87). -/
def Memory.blank (w : Nat) : BitVec w := 0

/-- The entry at index `a`. -/
def Memory.read {w : Nat} : List (Nat × BitVec w) → Nat → BitVec w
  | [], _ => Memory.blank w
  | (k, v) :: rest, a => if k = a then v else Memory.read rest a

/-- Put one entry before a list, unless it is what an unlisted entry reads as. -/
def Memory.entry {w : Nat} (a : Nat) (v : BitVec w) (rest : List (Nat × BitVec w)) :
    List (Nat × BitVec w) :=
  if v = Memory.blank w then rest else (a, v) :: rest

/-- The memory with `v` at index `a`, in the canonical form. -/
def Memory.write {w : Nat} : List (Nat × BitVec w) → Nat → BitVec w → List (Nat × BitVec w)
  | [], a, v => Memory.entry a v []
  | (k, u) :: rest, a, v =>
    if a < k then Memory.entry a v ((k, u) :: rest)
    else if a = k then Memory.entry a v rest
    else (k, u) :: Memory.write rest a v

/-- The canonical form: indexes strictly rising, no entry equal to what an unlisted one reads as. -/
def Memory.wf {w : Nat} : List (Nat × BitVec w) → Bool
  | [] => true
  | (k, v) :: rest => decide (v ≠ Memory.blank w) && rest.all (fun c => k < c.1) && Memory.wf rest

/-- Every listed index is below `n`. -/
def Memory.below {w : Nat} (n : Nat) (m : List (Nat × BitVec w)) : Bool := m.all fun c => c.1 < n

/-! ### Registers -/

/-- The stored value of a register. -/
def Regs.get (g : Regs) : RegName → Byte
  | .ppuctrl => g.ppuctrl
  | .ppumask => g.ppumask
  | .ppustatus => g.ppustatus
  | .oamaddr => g.oamaddr
  | .oamdata => g.oamdata
  | .ppuscroll => g.ppuscroll
  | .ppuaddr => g.ppuaddr
  | .ppudata => g.ppudata
  | .oamdma => g.oamdma
  | .dmcCtrl => g.dmcCtrl
  | .dmcAddr => g.dmcAddr
  | .dmcLen => g.dmcLen

/-- The register file with one stored value replaced. -/
def Regs.put (g : Regs) (r : RegName) (v : Byte) : Regs :=
  match r with
  | .ppuctrl => { g with ppuctrl := v }
  | .ppumask => { g with ppumask := v }
  | .ppustatus => { g with ppustatus := v }
  | .oamaddr => { g with oamaddr := v }
  | .oamdata => { g with oamdata := v }
  | .ppuscroll => { g with ppuscroll := v }
  | .ppuaddr => { g with ppuaddr := v }
  | .ppudata => { g with ppudata := v }
  | .oamdma => { g with oamdma := v }
  | .dmcCtrl => { g with dmcCtrl := v }
  | .dmcAddr => { g with dmcAddr := v }
  | .dmcLen => { g with dmcLen := v }

/-- `R.value` (R9). -/
def State.value (s : State) (r : RegName) : Byte := s.regs.get r

/-- `R.setValue(v)`: store `toUnsigned8(v)` (R52). Every register change goes through it (R55). -/
def State.setValue (s : State) (r : RegName) (v : Int) : State :=
  { s with regs := s.regs.put r (BitVec.ofNat 8 (BitOps.toUnsigned8 v)) }

/-- `R.F`: a field is a view of its register's value (R53). -/
def State.field (s : State) (f : Field) : Nat :=
  BitOps.getBits (s.value f.reg).toNat f.bitOffset f.bitWidth

/-- Assigning a writable field rewrites its bits of the value; a read-only field is never assigned alone
(R54). -/
def State.writeField (s : State) (f : Field) (v : Nat) : State :=
  if f.writable then s.setValue f.reg (BitOps.setBits (s.value f.reg).toNat f.bitOffset f.bitWidth v : Nat)
  else s

/-- What the default `onRead` hook returns (R56). -/
def defaultRead : Byte := 0x00

/-! ### Results, events and faults -/

/-- `return r` (R9): the driver gets the command's result (log entry 4). -/
def State.respond (s : State) (r : Result) : State := { s with result := r }

/-- `emit E` (R9, R175): the history records the event after all earlier ones. -/
def State.emit (s : State) (e : Event) : State := { s with history := s.history ++ [e] }

/-- `raise Fault` (R9, R454): the state before, plus `fault` (log entry 3). -/
def State.raise (s : State) (f : FaultRecord) : State := { s with fault := some f }

/-! ### Ports -/

/-- The collaborator's answer to one read: the next supplied one, else the free value (log entry 2). -/
def State.answer (s : State) (p : Port) (a : Addr) : Byte :=
  match s.answers with
  | v :: _ => v
  | [] => Config.answer s.draws p a

/-- The state after that answer was taken. -/
def State.takeAnswer (s : State) : State :=
  match s.answers with
  | _ :: rest => { s with answers := rest }
  | [] => { s with draws := s.draws + 1 }

/-- The event a read of a port leaves (R175). -/
def readEvent : Port → Addr → Byte → Event
  | .map => .mapRead
  | .nt => .ntRead
  | .pal => .palRead
  | .prg => .prgRead

/-- The state after a read of a port: the answer taken, the event recorded (R165 to R167, R175). The byte
read is `s.answer p a`. -/
def State.portRead (s : State) (p : Port) (a : Addr) : State :=
  s.takeAnswer.emit (readEvent p a (s.answer p a))

/-- The byte `MemRead(PPU, a, 1)` returns (R157). -/
def State.ppuByte (s : State) (a : Addr) : Byte :=
  match resolve a with
  | (.map, b) => s.answer .map b
  | (.nt, b) => s.answer .nt b
  | (.pal, b) => s.answer .pal b
  | (.none, _) => s.params.unmappedRead

/-- The state after `MemRead(PPU, a, 1)`: one port read, or none (R157). -/
def State.ppuRead (s : State) (a : Addr) : State :=
  match resolve a with
  | (.map, b) => s.portRead .map b
  | (.nt, b) => s.portRead .nt b
  | (.pal, b) => s.portRead .pal b
  | (.none, _) => s

/-- `MemWrite(PPU, a, 1, v)`: one port write, or none (R158). -/
def State.ppuWrite (s : State) (a : Addr) (v : Byte) : State :=
  match resolve a with
  | (.map, b) => s.emit (.mapWrite b v)
  | (.nt, b) => s.emit (.ntWrite b v)
  | (.pal, b) => s.emit (.palWrite b v)
  | (.none, _) => s

/-! ### OAM and the frame buffer -/

/-- `OAM[i]` (R86). -/
def State.oamByte (s : State) (i : Nat) : Byte := Memory.read s.oam i

/-- `OAM[i] <- v` (R86). -/
def State.oamWrite (s : State) (i : Nat) (v : Byte) : State := { s with oam := Memory.write s.oam i v }

/-- `frameBuffer[i]` (R87). -/
def State.pixel (s : State) (i : Nat) : Pixel := Memory.read s.frameBuffer i

/-- `frameBuffer[i] <- c` (R87). -/
def State.pixelWrite (s : State) (i : Nat) (c : Pixel) : State :=
  { s with frameBuffer := Memory.write s.frameBuffer i c }

/-! ### Accepting a command -/

/-- The driver's next command, if it has issued one, and the state once the block has accepted it
(R470). -/
def State.accept (s : State) : Option (Command × State) :=
  match s.commands with
  | [] => none
  | w :: rest => some (w, { s with commands := rest })

/-- The driver issues a command that the block accepts next. -/
def State.issue (s : State) (w : Command) : State := { s with commands := w :: s.commands }

end Sys2Proof.Machine
end

