-- ==== Sys2Proof/Machine/Flags.lean ====
section
/-! DEFINITION. The flags and control fields the rules read (10_state.md R61, R63, R70, R105), the step of
the data port (41_ppu_registers.md R335) and the outputs (10_state.md R100, R101). -/

namespace Sys2Proof.Machine

/-- PPUSTATUS.VBLANK (R63). -/
def State.vblank (s : State) : Bool := s.field .vblank == 1

/-- PPUCTRL.NMI_EN (R61). -/
def State.nmiEnabled (s : State) : Bool := s.field .nmiEn == 1

/-- The interrupt output, a level (R100, R460). -/
def State.nmi (s : State) : Bool := s.vblank && s.nmiEnabled

/-- The DPCM output (R101). -/
def State.dpcmOutput (s : State) : Int := s.output

/-- The DPCM activity output (R101). -/
def State.dpcmActive (s : State) : Bool := s.isActive

/-- `inc()` of R335. -/
def State.inc (s : State) : Nat := if s.field .inc == 1 then 32 else 1

/-- `latch.address <- (latch.address + inc()) mod 65536` (R335). -/
def State.advanceLatch (s : State) : State :=
  { s with latch := { s.latch with address := BitVec.ofNat 16 ((s.latch.address.toNat + s.inc) % 65536) } }

/-- The toggle flips (R326, R327). -/
def State.flipToggle (s : State) : State :=
  { s with latch := { s.latch with pendingHighByte := !s.latch.pendingHighByte } }

/-- DMC_CTRL.LOOP (R70). -/
def State.loop (s : State) : Bool := s.field .loop == 1

/-- `DPCM_PERIODS[DMC_CTRL.RATE]` (R401, R420). RATE is a 4-bit field, so the index is RATE itself. -/
def State.ratePeriod (s : State) : Nat := (s.params.periods.get (Fin.ofNat 16 (s.field .rate))).val

end Sys2Proof.Machine
end

