-- ==== Sys2Proof/Machine/BusRead.lean ====
section
/-! DEFINITION. The register-bus reads RD.* (41_ppu_registers.md R301 to R310, 42_dpcm.md R405 to R407). -/

namespace Sys2Proof.Machine

open Host (Outcome)

/-- The default `onRead` hook as a whole read: the result is 0 and nothing changes (R56). -/
def readDefault (s : State) : State := s.respond (.u8 defaultRead)

/-- R301. -/
def execRdCtrl (s : State) : Outcome State Fault Refusal := .next (readDefault s)

/-- R302. -/
def execRdMask (s : State) : Outcome State Fault Refusal := .next (readDefault s)

/-- R303: the value before VBLANK is cleared, then the toggle set to the first-write state. -/
def execRdStatus (s : State) : Outcome State Fault Refusal :=
  let cleared := s.setValue .ppustatus (((s.value .ppustatus).toNat &&& 0x7F : Nat) : Int)
  .next ({ cleared with latch := { cleared.latch with pendingHighByte := true } }.respond
    (.u8 (s.value .ppustatus)))

/-- R304. -/
def execRdOamaddr (s : State) : Outcome State Fault Refusal := .next (readDefault s)

/-- R305. -/
def execRdOamdata (s : State) : Outcome State Fault Refusal :=
  .next (s.respond (.u8 (s.oamByte (s.value .oamaddr).toNat)))

/-- R306. -/
def execRdScroll (s : State) : Outcome State Fault Refusal := .next (readDefault s)

/-- R307. -/
def execRdAddr (s : State) : Outcome State Fault Refusal := .next (readDefault s)

/-- R308: the old buffer is the result, then the buffer is refilled and the latch advances. -/
def execRdData (s : State) : Outcome State Fault Refusal :=
  let refilled := { s.ppuRead s.latch.address with readBuffer := s.ppuByte s.latch.address }
  .next (refilled.advanceLatch.respond (.u8 s.readBuffer))

/-- R309. -/
def execRdOamdma (s : State) : Outcome State Fault Refusal := .next (readDefault s)

/-- R405. -/
def execRdDmcCtrl (s : State) : Outcome State Fault Refusal := .next (readDefault s)

/-- R406. -/
def execRdDmcAddr (s : State) : Outcome State Fault Refusal := .next (readDefault s)

/-- R407. -/
def execRdDmcLen (s : State) : Outcome State Fault Refusal := .next (readDefault s)

/-- R310: P_UNMAPPED_READ, whatever the address. -/
def execRdUnmapped (_a : Addr) (s : State) : Outcome State Fault Refusal :=
  .next (s.respond (.u8 s.params.unmappedRead))

end Sys2Proof.Machine
end

