-- ==== Sys2Proof/Machine/BusWrite.lean ====
section
/-! DEFINITION. The register-bus writes WR.* (41_ppu_registers.md R321 to R330, 42_dpcm.md R410 to R412). -/

namespace Sys2Proof.Machine

open Host (Outcome)

/-- A write whose hook only stores the byte (R60, D12); the command has no result. -/
def writePlain (r : RegName) (d : Byte) (s : State) : State :=
  (s.setValue r d.toNat).respond .nothing

/-- The default `onWrite` hook and a write nothing takes: no effect, no result (R56, R320). -/
def writeIgnored (s : State) : State := s.respond .nothing

/-- R321. -/
def execWrCtrl (d : Byte) (s : State) : Outcome State Fault Refusal := .next (writePlain .ppuctrl d s)

/-- R322. -/
def execWrMask (d : Byte) (s : State) : Outcome State Fault Refusal := .next (writePlain .ppumask d s)

/-- R323: PPUSTATUS is read-only. -/
def execWrStatus (_d : Byte) (s : State) : Outcome State Fault Refusal := .next (writeIgnored s)

/-- R324. -/
def execWrOamaddr (d : Byte) (s : State) : Outcome State Fault Refusal := .next (writePlain .oamaddr d s)

/-- R325: store at OAMADDR, then OAMADDR + 1, which `setValue` masks. -/
def execWrOamdata (d : Byte) (s : State) : Outcome State Fault Refusal :=
  let held := s.setValue .oamdata d.toNat
  let stored := held.oamWrite (held.value .oamaddr).toNat d
  .next ((stored.setValue .oamaddr ((stored.value .oamaddr).toNat + 1)).respond .nothing)

/-- R326: X on the first write of a pair, Y on the second, by the shared toggle. -/
def execWrScroll (d : Byte) (s : State) : Outcome State Fault Refusal :=
  let held := s.setValue .ppuscroll d.toNat
  let set := if held.latch.pendingHighByte then { held with scrollX := d } else { held with scrollY := d }
  .next (set.flipToggle.respond .nothing)

/-- R327: the high byte of the latch address on the first write of a pair, the low byte on the second. -/
def execWrAddr (d : Byte) (s : State) : Outcome State Fault Refusal :=
  let held := s.setValue .ppuaddr d.toNat
  let old := held.latch.address.toNat
  let new :=
    if held.latch.pendingHighByte then BitOps.buildU16 d.toNat (BitOps.lowByte old)
    else BitOps.buildU16 (BitOps.highByte old) d.toNat
  .next ({ held with latch := { held.latch with address := BitVec.ofNat 16 new } }.flipToggle.respond .nothing)

/-- R328: the held byte goes to the PPU space at the latch address, which then advances. -/
def execWrData (d : Byte) (s : State) : Outcome State Fault Refusal :=
  let held := s.setValue .ppudata d.toNat
  .next ((held.ppuWrite held.latch.address (held.value .ppudata)).advanceLatch.respond .nothing)

/-- The copy loop of R329 from iteration `i` on, `n` iterations left: read PRG, store into OAM. -/
def oamCopy (p : Byte) : Nat → Nat → State → State
  | 0, _, s => s
  | n + 1, i, s =>
    oamCopy p n (i + 1)
      ((s.portRead .prg (dmaSource p i)).oamWrite (dmaDest (s.value .oamaddr) i)
        (s.answer .prg (dmaSource p i)))

/-- R329: 256 bytes from program memory page `p` into OAM, from index OAMADDR on. -/
def execWrOamdma (d : Byte) (s : State) : Outcome State Fault Refusal :=
  .next ((oamCopy d 256 0 (s.setValue .oamdma d.toNat)).respond .nothing)

/-- R410. -/
def execWrDmcCtrl (d : Byte) (s : State) : Outcome State Fault Refusal := .next (writePlain .dmcCtrl d s)

/-- R411. -/
def execWrDmcAddr (d : Byte) (s : State) : Outcome State Fault Refusal := .next (writePlain .dmcAddr d s)

/-- R412. -/
def execWrDmcLen (d : Byte) (s : State) : Outcome State Fault Refusal := .next (writePlain .dmcLen d s)

/-- R330. -/
def execWrUnmapped (_d : Byte) (_a : Addr) (s : State) : Outcome State Fault Refusal :=
  .next (writeIgnored s)

end Sys2Proof.Machine
end

