-- ==== Sys2Proof/Machine/Picture.lean ====
section
/-! DEFINITION. The PictureEngine's operations STEP, PLOT and TILE (40_ppu_engine.md R250 to R270). -/

namespace Sys2Proof.Machine

open Host (Outcome)

/-- Part 1 of R250, the VBlank set of R251. -/
def vblankEvent (s : State) : State :=
  if s.scanline = 241 ∧ s.cycle = 1 then
    s.setValue .ppustatus (BitOps.setBit (s.value .ppustatus).toNat 7 1 : Nat)
  else s

/-- Part 1 of R250, the pre-render clear of R252. -/
def preRenderEvent (s : State) : State :=
  if s.scanline = -1 ∧ s.cycle = 1 then
    s.setValue .ppustatus (((s.value .ppustatus).toNat &&& 0x1F : Nat) : Int)
  else s

/-- The frame boundary of R250: the new frame's number and the whole frame buffer are delivered (R168). -/
def frameBoundary (s : State) : State :=
  let next := { s with scanline := -1, frame := s.frame + 1 }
  next.emit (.frame next.frame next.frameBuffer)

/-- The scanline part of part 2 of R250. -/
def scanlineAdvance (s : State) : State :=
  let next := { s with cycle := 0, scanline := s.scanline + 1 }
  if next.scanline = 261 then frameBoundary next else next

/-- Part 2 of R250. -/
def counterAdvance (s : State) : State :=
  let next := { s with cycle := s.cycle + 1 }
  if next.cycle = 341 then scanlineAdvance next else next

/-- R250: the position events at the position held on entry, then the counter advance. -/
def execStep (s : State) : Outcome State Fault Refusal :=
  .next ((counterAdvance (preRenderEvent (vblankEvent s))).respond .nothing)

/-- R270, and R453 for a row out of range: the fault, with the word of this command and (x, y)
recorded (log entry 10). -/
def execPlot (x y : Byte) (c : Pixel) (s : State) : Outcome State Fault Refusal :=
  if y.toNat ≥ 240 then .next (s.raise (.plotOutOfRange (encode (.plot x y c)) x y))
  else .next ((s.pixelWrite (pixelIndex x y) c).respond .nothing)

/-- R260: the low-plane row is read before the high-plane row. -/
def execTile (t : BitVec 1) (n : Byte) (r x : BitVec 3) (s : State) : Outcome State Fault Refusal :=
  let lo := s.ppuByte (tileLow t n r)
  let s1 := s.ppuRead (tileLow t n r)
  let hi := s1.ppuByte (tileHigh t n r)
  let s2 := s1.ppuRead (tileHigh t n r)
  .next (s2.respond (.u2 (colorIndex hi lo x)))

end Sys2Proof.Machine
end

