-- ==== Sys2Proof/Machine/Reset.lean ====
section
/-! DEFINITION. RESET (70_reset_and_hazards.md R500). -/

namespace Sys2Proof.Machine

open Host (Outcome)

/-- Every register through `setValue(0x00)`, in the order of R60. -/
def clearRegs : List RegName → State → State
  | [], s => s
  | r :: rest, s => clearRegs rest (s.setValue r 0x00)

/-- R500: `history` and `fault` are not changed, and neither are the driver's queue, the collaborators'
answers and the parameters, which are not the block's. -/
def execReset (s : State) : Outcome State Fault Refusal :=
  let cleared := clearRegs RegName.all s
  .next ({ cleared with
    cycle := 0
    scanline := -1
    frame := 0
    latch := ⟨0x0000, true⟩
    scrollX := 0x00
    scrollY := 0x00
    readBuffer := 0x00
    oam := []
    frameBuffer := []
    isActive := false
    startPending := false
    dividerPeriod := 0
    dividerCount := 0
    cursorByte := -1
    cursorBit := 0
    sampleAddress := 0
    sampleLength := 0
    buffer := none
    output := 0 }.respond .nothing)

end Sys2Proof.Machine
end

