-- ==== Sys2Proof/Machine/Sample.lean ====
section
/-! DEFINITION. The SampleChannel's operations DUPD, DSTART, DSTOP and DREM (42_dpcm.md R415 to R440). -/

namespace Sys2Proof.Machine

open Host (Outcome)

/-- Part 1 of R420, R416: an armed start is applied; the buffer is left as it is (D30). -/
def applyStart (s : State) : State :=
  if s.startPending then
    { s with
      startPending := false
      dividerPeriod := s.ratePeriod
      dividerCount := s.ratePeriod - 1
      cursorByte := -1
      cursorBit := 0
      sampleAddress := startAddress (s.value .dmcAddr)
      sampleLength := startLength (s.value .dmcLen)
      output := 0
      isActive := true }
  else s

/-- The completion of part 4 of R420 (R423), with the loop re-arm of R424. `finished` is
`sampleFinished`, taken before the cursor moves. -/
def completeSample (finished : Bool) (s : State) : State :=
  { s with
    cursorByte := s.sampleLength
    isActive := false
    buffer := none
    output := 0
    startPending := if !finished && s.loop then true else s.startPending }

/-- The address part 4 of R420 fetches the next byte from (R421). -/
def nextFetch (s : State) : Addr :=
  BitVec.ofInt 16 (fetchAddr s.sampleAddress.toNat (s.cursorByte + 1))

/-- The fetch of part 4 of R420. -/
def fetchByte (s : State) : State :=
  { s.portRead .prg (nextFetch s) with
    cursorByte := s.cursorByte + 1
    buffer := some (s.answer .prg (nextFetch s)) }

/-- Part 5 of R420, R425: one bit of the buffered byte, the least significant first. Part 4 leaves a
byte in the buffer, so the EMPTY case does not arise. -/
def playBit (s : State) : State :=
  match s.buffer with
  | some b =>
    { s with
      output := if BitOps.getBit b.toNat s.cursorBit = 1 then s.output + 1 else s.output - 1
      cursorBit := s.cursorBit + 1 }
  | none => s

/-- Parts 4 and 5 of R420, once the divider has elapsed. -/
def bitDecision (s : State) : State :=
  if s.buffer = none ∨ s.cursorBit = 8 then
    let moved := { s with cursorBit := 0 }
    if s.cursorByte + 1 ≥ s.sampleLength then
      completeSample (s.cursorByte == s.sampleLength) moved
    else playBit (fetchByte moved)
  else playBit s

/-- Parts 2 to 5 of R420: idle, divider, then the bit decision. -/
def channelTick (s : State) : State :=
  if !s.isActive then s
  else
    let counted := { s with dividerCount := s.dividerCount + 1 }
    if counted.dividerCount < counted.dividerPeriod then counted
    else bitDecision { counted with dividerCount := 0 }

/-- R420. -/
def execDupd (s : State) : Outcome State Fault Refusal :=
  .next ((channelTick (applyStart s)).respond .nothing)

/-- R415. -/
def execDstart (s : State) : Outcome State Fault Refusal :=
  .next ({ s with startPending := true }.respond .nothing)

/-- R418. -/
def execDstop (s : State) : Outcome State Fault Refusal :=
  .next ({ s with cursorByte := s.sampleLength }.respond .nothing)

/-- What `remainingBytes()` returns (R440). -/
def remainingBytes (s : State) : Int := if s.isActive then s.sampleLength - s.cursorByte else 0

/-- R440: the count as a u32; it lies in 0..4082 in every state that meets the invariant. -/
def execDrem (s : State) : Outcome State Fault Refusal :=
  .next (s.respond (.u32 (BitVec.ofInt 32 (remainingBytes s))))

end Sys2Proof.Machine
end

