-- ==== Sys2Proof/Machine/Dispatch.lean ====
section
/-! DEFINITION. One arm per instruction, each one direct call of its meaning. -/

namespace Sys2Proof.Machine

def exec (i : Instr) (s : State) : Host.Outcome State Fault Refusal :=
  match i with
  | .rdCtrl => Sys2Proof.Machine.execRdCtrl s
  | .rdMask => Sys2Proof.Machine.execRdMask s
  | .rdStatus => Sys2Proof.Machine.execRdStatus s
  | .rdOamaddr => Sys2Proof.Machine.execRdOamaddr s
  | .rdOamdata => Sys2Proof.Machine.execRdOamdata s
  | .rdScroll => Sys2Proof.Machine.execRdScroll s
  | .rdAddr => Sys2Proof.Machine.execRdAddr s
  | .rdData => Sys2Proof.Machine.execRdData s
  | .rdOamdma => Sys2Proof.Machine.execRdOamdma s
  | .rdDmcCtrl => Sys2Proof.Machine.execRdDmcCtrl s
  | .rdDmcAddr => Sys2Proof.Machine.execRdDmcAddr s
  | .rdDmcLen => Sys2Proof.Machine.execRdDmcLen s
  | .rdUnmapped a => Sys2Proof.Machine.execRdUnmapped a s
  | .wrCtrl d => Sys2Proof.Machine.execWrCtrl d s
  | .wrMask d => Sys2Proof.Machine.execWrMask d s
  | .wrStatus d => Sys2Proof.Machine.execWrStatus d s
  | .wrOamaddr d => Sys2Proof.Machine.execWrOamaddr d s
  | .wrOamdata d => Sys2Proof.Machine.execWrOamdata d s
  | .wrScroll d => Sys2Proof.Machine.execWrScroll d s
  | .wrAddr d => Sys2Proof.Machine.execWrAddr d s
  | .wrData d => Sys2Proof.Machine.execWrData d s
  | .wrOamdma d => Sys2Proof.Machine.execWrOamdma d s
  | .wrDmcCtrl d => Sys2Proof.Machine.execWrDmcCtrl d s
  | .wrDmcAddr d => Sys2Proof.Machine.execWrDmcAddr d s
  | .wrDmcLen d => Sys2Proof.Machine.execWrDmcLen d s
  | .wrUnmapped d a => Sys2Proof.Machine.execWrUnmapped d a s
  | .step => Sys2Proof.Machine.execStep s
  | .plot x y c => Sys2Proof.Machine.execPlot x y c s
  | .tile t n r x => Sys2Proof.Machine.execTile t n r x s
  | .dupd => Sys2Proof.Machine.execDupd s
  | .dstart => Sys2Proof.Machine.execDstart s
  | .dstop => Sys2Proof.Machine.execDstop s
  | .drem => Sys2Proof.Machine.execDrem s
  | .reset => Sys2Proof.Machine.execReset s

end Sys2Proof.Machine
end

