-- ==== Sys2Proof/Machine/Step.lean ====
section
/-! DEFINITION. One step of the block: it takes one command the driver issued (60_exceptions.md R470). -/

namespace Sys2Proof.Machine

/-- One step. In a faulted state there is none (R455). With no command issued the block waits (R502, log
entry 1). An ILLEGAL word raises its fault and does nothing else (R206, R451). -/
def step (s : State) : Host.Outcome State Fault Refusal :=
  match s.fault with
  | some f => .fault (.halted f)
  | none =>
    match s.accept with
    | none => .next s
    | some (w, t) =>
      match decode w with
      | .instr i => exec i t
      | .illegal _ => .next (t.raise (.illegalCommand w))

/-- `s` with the word whose bits are `w` as the driver's next command. Every instruction is one 64-bit
word (R200), so `nbits` selects nothing. -/
def State.withFetchWord (s : State) (_nbits w : Nat) : State := s.issue (BitVec.ofNat 64 w)

end Sys2Proof.Machine
end

