-- ==== Sys2Proof/Safety.lean ====
section
/-! DEFINITION. The terms claims are stated in: sequences of commands, the invariant of the reachable
states, and the spec's own tables (20_memory.md R174, 30_encoding.md R201) as statements read them. -/

namespace Sys2Proof.Machine

open Host (Outcome)

/-! ### Sequences of commands -/

/-- The commands of a list, one after the other (R170), up to the first that answers no next state. -/
def execAll : List Instr → State → Outcome State Fault Refusal
  | [], s => .next s
  | i :: rest, s =>
    match exec i s with
    | .next t => execAll rest t
    | .fault r => .fault r
    | .refused r => .refused r

/-- The same command `n` times, as in `STEP n` and `DUPD n` of R211. -/
def repeatExec (i : Instr) (n : Nat) (s : State) : Outcome State Fault Refusal :=
  execAll (List.replicate n i) s

/-- A safe state: no fault is set, so the block accepts commands (R103, R455). -/
def State.Safe (s : State) : Prop := s.fault = none

/-! ### The outside world -/

/-- Between `s` and `t` the collaborators answered exactly the bytes `vs`, in order: the supplied
answers first, and any bytes where none was supplied (log entry 2). -/
def State.Answered (s t : State) (vs : List Byte) : Prop :=
  vs.take s.answers.length = s.answers.take vs.length ∧
  t.answers = s.answers.drop vs.length ∧
  t.draws = s.draws + (vs.length - s.answers.length)

/-- The event a PPU-space read of `a` answered `v` leaves, by the ranges of R174 and R175: one read on
the MAP, NT or PAL port, or none. -/
def readEventsAt (a : Addr) (v : Byte) : List Event :=
  if a.toNat ≤ 0x1FFF then [.mapRead a v]
  else if a.toNat ≤ 0x2FFF then [.ntRead a v]
  else if a.toNat ≤ 0x3EFF then [.ntRead (a - 0x1000) v]
  else if a.toNat ≤ 0x3F1F then [.palRead a v]
  else if a.toNat ≤ 0x3FFF then [.palRead (0x3F00 + (a - 0x3F20) % 0x20) v]
  else []

/-- The event a PPU-space write of `v` at `a` leaves, by the same ranges. -/
def writeEventsAt (a : Addr) (v : Byte) : List Event :=
  if a.toNat ≤ 0x1FFF then [.mapWrite a v]
  else if a.toNat ≤ 0x2FFF then [.ntWrite a v]
  else if a.toNat ≤ 0x3EFF then [.ntWrite (a - 0x1000) v]
  else if a.toNat ≤ 0x3F1F then [.palWrite a v]
  else if a.toNat ≤ 0x3FFF then [.palWrite (0x3F00 + (a - 0x3F20) % 0x20) v]
  else []

/-- An event names an address its port may be called with (R165, R166), and a frame's number and
snapshot are those of a frame buffer (R168). -/
def Event.wf : Event → Bool
  | .mapRead a _ => a.toNat ≤ 0x1FFF
  | .mapWrite a _ => a.toNat ≤ 0x1FFF
  | .ntRead a _ => 0x2000 ≤ a.toNat && a.toNat ≤ 0x2FFF
  | .ntWrite a _ => 0x2000 ≤ a.toNat && a.toNat ≤ 0x2FFF
  | .palRead a _ => 0x3F00 ≤ a.toNat && a.toNat ≤ 0x3F1F
  | .palWrite a _ => 0x3F00 ≤ a.toNat && a.toNat ≤ 0x3F1F
  | .prgRead _ _ => true
  | .frame n m => 0 < n && Memory.wf m && Memory.below 61440 m

/-- The event is a frame delivery (R168). -/
def Event.isFrame : Event → Bool
  | .frame _ _ => true
  | _ => false

/-! ### Encoding -/

/-- The reserved bits of the format of an opcode (R201, R203); 0 for an opcode R203 does not list. -/
def reservedBits (op : Byte) : Command :=
  if op = 0x01 then 0x00FFFFFFFFFF0000
  else if op = 0x02 then 0x00FFFFFFFF000000
  else if op = 0x11 then 0x000000FF00000000
  else if op = 0x12 then 0x00FE00FFFFFFF8F8
  else if op = 0x10 ∨ op = 0x20 ∨ op = 0x21 ∨ op = 0x22 ∨ op = 0x23 ∨ op = 0x30 then 0x00FFFFFFFFFFFFFF
  else 0

/-- The twelve mapped addresses of the register bus (R60, R174). -/
def busAddresses : List Addr :=
  [0x2000, 0x2001, 0x2002, 0x2003, 0x2004, 0x2005, 0x2006, 0x2007, 0x4014, 0x4010, 0x4012, 0x4013]

/-! ### Which command may write what -/

/-- The registers a command may change, by the text of R61 to R72 ("written by") and R500. -/
def mayWrite : Instr → RegName → Bool
  | .reset, _ => true
  | .wrCtrl _, .ppuctrl => true
  | .wrMask _, .ppumask => true
  | .step, .ppustatus => true
  | .rdStatus, .ppustatus => true
  | .wrOamaddr _, .oamaddr => true
  | .wrOamdata _, .oamaddr => true
  | .wrOamdata _, .oamdata => true
  | .wrScroll _, .ppuscroll => true
  | .wrAddr _, .ppuaddr => true
  | .wrData _, .ppudata => true
  | .wrOamdma _, .oamdma => true
  | .wrDmcCtrl _, .dmcCtrl => true
  | .wrDmcAddr _, .dmcAddr => true
  | .wrDmcLen _, .dmcLen => true
  | _, _ => false

/-- The commands of the SampleChannel (R203, R405 to R412). -/
def isSampleCommand : Instr → Bool
  | .rdDmcCtrl | .rdDmcAddr | .rdDmcLen | .wrDmcCtrl _ | .wrDmcAddr _ | .wrDmcLen _ => true
  | .dupd | .dstart | .dstop | .drem => true
  | _ => false

/-! ### The invariant -/

/-- The linear position of R253. -/
def State.position (s : State) : Int := (s.scanline + 1) * 341 + s.cycle

/-- The PPU position is in its ranges (R80, R81). -/
structure State.PositionOk (s : State) : Prop where
  cycle : s.cycle ≤ 340
  scanlineLow : -1 ≤ s.scanline
  scanlineHigh : s.scanline ≤ 260

/-- What the spec says of the SampleChannel's state between operations (R92 to R97, R423). -/
structure State.ChannelOk (s : State) : Prop where
  /-- R93. -/
  cursorLow : -1 ≤ s.cursorByte
  /-- R93. -/
  cursorHigh : s.cursorByte ≤ s.sampleLength
  /-- R94. -/
  cursorBit : s.cursorBit ≤ 8
  /-- R95. -/
  length : s.sampleLength ≤ 4081
  /-- R92. -/
  period : s.dividerPeriod ≤ 65535
  /-- R92: the divider between operations. -/
  divider : s.isActive = true → s.dividerCount < s.dividerPeriod
  /-- An idle channel's divider stands at 0 (R420). -/
  dividerIdle : s.isActive = false → s.dividerCount = 0
  /-- R95: the sample of an active channel. -/
  activeAddress : s.isActive = true → ∃ k, k ≤ 255 ∧ s.sampleAddress.toNat = 0xC000 + 64 * k
  /-- R95. -/
  activeLength : s.isActive = true → ∃ k, k ≤ 255 ∧ s.sampleLength = 16 * k + 1
  /-- An active channel plays a byte, at least one bit of which was played (R420). -/
  playing : s.isActive = true → s.buffer.isSome = true ∧ 1 ≤ s.cursorBit
  /-- An idle channel holds no byte and drives 0 (R96, R97). -/
  idle : s.isActive = false → s.buffer = none ∧ s.output = 0
  /-- R97: the accumulator moved by at most 1 for each bit since the last zeroing. -/
  output : |s.output| ≤ 8 * (min s.cursorByte (s.sampleLength - 1) + 1) + s.cursorBit

/-- The invariant of the reachable states. -/
structure State.Inv (s : State) : Prop where
  position : s.PositionOk
  /-- R63: bits 4:0 are always 0, and nothing sets SPR_OVERFLOW or SPR0_HIT. -/
  status : s.regs.ppustatus &&& 0x7F = 0
  /-- R86, in the canonical form. -/
  oamForm : Memory.wf s.oam = true
  oamSize : Memory.below 256 s.oam = true
  /-- R87, in the canonical form. -/
  frameForm : Memory.wf s.frameBuffer = true
  frameSize : Memory.below 61440 s.frameBuffer = true
  channel : s.ChannelOk
  /-- R165, R166, R168. -/
  history : s.history.all Event.wf = true

end Sys2Proof.Machine
end

