-- ==== Sys2Proof/Certificates/Slice0/Obligations.lean ====
section
/-! DEFINITION. The statements about the block, each from the numbered rules of the spec. -/

open Sys2Proof Sys2Proof.Machine

/-- Fifteen words written out from the spec's encodings, at least one of each family and four ILLEGAL ones,
decode to the instruction or the rejection the spec names.
Rules: 30_encoding.md R204, R205, R206, R210; 95_test_vectors.md table Decode (E1 to E19). -/
def Obligations.DecodeSampleWords : Prop :=
  decode 0x0100000000002002 = .instr .rdStatus ∧
  decode 0x0100000000003002 = .instr (.rdUnmapped 0x3002) ∧
  decode 0x0100000100002002 = .illegal .reservedBits ∧
  decode 0x0200000000122006 = .instr (.wrAddr 0x12) ∧
  decode 0x02000000FF002000 = .illegal .reservedBits ∧
  decode 0x0200000000804011 = .instr (.wrUnmapped 0x80 0x4011) ∧
  decode 0x02000000000F4010 = .instr (.wrDmcCtrl 0x0F) ∧
  decode 0x1000000000000000 = .instr .step ∧
  decode 0x11EFFF0012345678 = .instr (.plot 255 239 0x12345678) ∧
  decode 0x1201FF0000000707 = .instr (.tile 1 255 7 7) ∧
  decode 0x1202000000000000 = .illegal .reservedBits ∧
  decode 0x2000000000000000 = .instr .dupd ∧
  decode 0x2300000000000000 = .instr .drem ∧
  decode 0x3000000000000000 = .instr .reset ∧
  decode 0xFF00000000000000 = .illegal .reservedOpcode

/-- For every well-formed instruction, with every operand at every value its field admits, decoding its
encoded word gives it back.
Rules: 30_encoding.md R201, R202, R204, R205. -/
def Obligations.DecodeEncodeRoundTrip : Prop :=
  ∀ i : Instr, i.wf = true → decode (encode i) = .instr i

/-- Whenever a word decodes to an instruction, that instruction is well formed and its encoding is that very
word: no bit of a word is dropped by the decoder.
Rules: 30_encoding.md R201, R202, R204, R205, R206. -/
def Obligations.DecodedWordsAreTheEncodersOwn : Prop :=
  ∀ (w : Command) (i : Instr), decode w = .instr i → i.wf = true ∧ encode i = w

/-- The decoder rejects a word if and only if its OP is not in R203 or a reserved bit of the format of its OP
(R201) is 1, and it names the first reason exactly when the OP is unlisted. The names of the reasons are
the model's (log entry 14).
Rules: 30_encoding.md R201, R203, R206. -/
def Obligations.IllegalWordsExactly : Prop :=
  ∀ w : Command,
    ((∃ why, decode w = .illegal why) ↔ fieldOp w ∉ opcodes ∨ w &&& reservedBits (fieldOp w) ≠ 0) ∧
    (decode w = .illegal .reservedOpcode ↔ fieldOp w ∉ opcodes)

/-- For every row of R204 but the two UNMAPPED rows, a word that matches the row decodes as that row, so the
order of the rows does not matter. A word matching an UNMAPPED row decodes as that row exactly when its A
field is none of the twelve mapped addresses.
Rules: 30_encoding.md R204, R205. -/
def Obligations.RowThatMatchesDecodes : Prop :=
  (∀ r ∈ rows, ∀ w : Command, w &&& r.mask = r.pattern → decode w = .instr (r.build w)) ∧
  (∀ w : Command, w &&& 0xFFFFFFFFFFFF0000 = 0x0100000000000000 →
    (decode w = .instr (.rdUnmapped (w.extractLsb' 0 16)) ↔ w.extractLsb' 0 16 ∉ busAddresses)) ∧
  (∀ w : Command, w &&& 0xFFFFFFFFFF000000 = 0x0200000000000000 →
    (decode w = .instr (.wrUnmapped (w.extractLsb' 16 8) (w.extractLsb' 0 16)) ↔
      w.extractLsb' 0 16 ∉ busAddresses))

/-- In a state with no fault set whose next command word decodes to an instruction, a step is that
instruction's meaning on the state with the word taken from the driver's queue. The queue of commands is
the model's own (log entry 1).
Rules: 20_memory.md R170; 30_encoding.md R205; 60_exceptions.md R470. -/
def Obligations.StepRunsTheDecodedCommand : Prop :=
  ∀ (s : State) (w : Command) (rest : List Command) (i : Instr),
    s.fault = none → s.commands = w :: rest → decode w = .instr i →
    step s = exec i { s with commands := rest }

/-- In a state with no fault set and no command issued, a step changes nothing: the block waits for the
driver's next command. That the wait is a step is the model's choice, log entry 1.
Rules: 70_reset_and_hazards.md R502; 60_exceptions.md R470. -/
def Obligations.StepWaitsForTheDriver : Prop :=
  ∀ s : State, s.fault = none → s.commands = [] → step s = .next s

/-- In a state with no fault set, a next command word with an unlisted OP or a reserved bit of its format set
makes the step set `fault` to ILLEGAL_COMMAND with that word; no other state changes and no event is
emitted. So no word is silently ignored. The queue `commands` is the model's own (log entry 1).
Rules: R451. -/
def Obligations.IllegalCommandFaults : Prop :=
  ∀ (s : State) (w : Command) (rest : List Command),
    s.fault = none → s.commands = w :: rest →
    (fieldOp w ∉ opcodes ∨ w &&& reservedBits (fieldOp w) ≠ 0) →
    step s = .next { s with commands := rest, fault := some (.illegalCommand w) }

/-- In a state with no fault set, a next command word that decodes to PLOT x, y with y >= 240 makes the step
set `fault` to PLOT_OUT_OF_RANGE recording that very word and (x, y); the frame buffer is not written and
no other state changes. The queue `commands` is the model's own (log entry 1).
Rules: R453. -/
def Obligations.PlotOutOfRangeFaults : Prop :=
  ∀ (s : State) (w : Command) (rest : List Command) (x y : Byte) (c : Pixel),
    s.fault = none → s.commands = w :: rest → decode w = .instr (.plot x y c) → 240 ≤ y.toNat →
    step s = .next { s with commands := rest, fault := some (.plotOutOfRange w x y) }

/-- If a step from a state with no fault set leads to one with a fault set, its command was an ILLEGAL word or
a PLOT with y >= 240, the fault records it, and the state after is the state before with the word taken
and `fault` set.
Rules: 60_exceptions.md R450, R454, R457. -/
def Obligations.FaultsHaveOnlyTheirTwoCauses : Prop :=
  ∀ (s t : State) (f : FaultRecord), s.fault = none → step s = .next t → t.fault = some f →
    ∃ w rest, s.commands = w :: rest ∧ t = { s with commands := rest, fault := some f } ∧
      (((∃ why, decode w = .illegal why) ∧ f = .illegalCommand w) ∨
        ∃ x y c, decode w = .instr (.plot x y c) ∧ 240 ≤ y.toNat ∧ f = .plotOutOfRange w x y)

/-- From a state with `fault` set every run of one step or more stops at once with that fault, whatever
commands are issued, RESET included; and no command's meaning clears `fault`. That such a state's step
answers the host's fault outcome is the model's choice, log entry 3.
Rules: 60_exceptions.md R455. -/
def Obligations.FaultIsTerminal : Prop :=
  (∀ (s : State) (f : FaultRecord) (n : Nat), s.fault = some f →
    Host.Core.run Sys2Proof.core (n + 1) s = .fault (.halted f)) ∧
  (∀ (i : Instr) (s t : State), exec i s = .next t → s.fault.isSome = true → t.fault.isSome = true)

/-- The word of STEP decodes to it. It always runs: PPUSTATUS gets bit 7 set at (cycle 1, scanline 241) and
bits 7 to 5 cleared at (1, -1); cycle advances and wraps at 341 into scanline, which wraps from 260 to -1,
where frame increments and Frame(frame, frameBuffer) is emitted. Everything else is unchanged.
Rules: R250. -/
def Obligations.StepEffect : Prop :=
  decode 0x1000000000000000 = .instr .step ∧
  ∀ s : State,
    exec .step s = .next
      { s with
        regs := { s.regs with
          ppustatus :=
            if s.scanline = 241 ∧ s.cycle = 1 then s.regs.ppustatus ||| 0x80
            else if s.scanline = -1 ∧ s.cycle = 1 then s.regs.ppustatus &&& 0x1F
            else s.regs.ppustatus }
        cycle := if s.cycle = 340 then 0 else s.cycle + 1
        scanline :=
          if s.cycle = 340 then (if s.scanline = 260 then -1 else s.scanline + 1) else s.scanline
        frame := if s.cycle = 340 ∧ s.scanline = 260 then s.frame + 1 else s.frame
        history :=
          if s.cycle = 340 ∧ s.scanline = 260 then s.history ++ [.frame (s.frame + 1) s.frameBuffer]
          else s.history
        result := .nothing }

/-- A STEP that begins at cycle 1 of scanline 241 sets VBLANK, leaves the other seven bits of PPUSTATUS
unchanged, and ends with nmi equal to NMI_EN. The position is the spec's own decision D14.
Rules: R251. -/
def Obligations.VBlankSetRaisesNmi : Prop :=
  ∀ s : State, s.scanline = 241 → s.cycle = 1 →
    ∃ t, exec .step s = .next t ∧ t.vblank = true ∧
      (∀ k, k < 7 → t.regs.ppustatus.getLsbD k = s.regs.ppustatus.getLsbD k) ∧
      t.nmi = s.nmiEnabled

/-- A STEP that begins at cycle 1 of scanline -1 clears bits 7, 6 and 5 of PPUSTATUS and leaves bits 4 to 0
unchanged, and nmi is 0 after it. The position is the spec's own decision D14.
Rules: R252. -/
def Obligations.PreRenderStepClearsFlags : Prop :=
  ∀ s : State, s.scanline = -1 → s.cycle = 1 →
    ∃ t, exec .step s = .next t ∧
      t.field .vblank = 0 ∧ t.field .spr0Hit = 0 ∧ t.field .sprOverflow = 0 ∧
      (∀ k, k < 5 → t.regs.ppustatus.getLsbD k = s.regs.ppustatus.getLsbD k) ∧ t.nmi = false

/-- From a position in its ranges, with i = (scanline + 1) * 341 + cycle, STEP moves to position (i + 1) mod
89342 within its ranges, and it increments frame and emits exactly one Frame event exactly when i = 89341
on entry.
Rules: 40_ppu_engine.md section 1 (position arithmetic, derived from R250). -/
def Obligations.StepMovesTheLinearPosition : Prop :=
  ∀ s : State, s.PositionOk →
    ∃ t, exec .step s = .next t ∧ t.PositionOk ∧ t.position = (s.position + 1) % 89342 ∧
      t.frame = (if s.position = 89341 then s.frame + 1 else s.frame) ∧
      t.history =
        (if s.position = 89341 then s.history ++ [.frame (s.frame + 1) s.frameBuffer] else s.history)

/-- From every state with its position in range, 341 * 262 consecutive STEPs return cycle and scanline to
their start values, increase frame by exactly 1 and emit exactly one event, the Frame event of the new
frame with the unchanged frame buffer.
Rules: 40_ppu_engine.md section 1 (position arithmetic, derived from R250); 95_test_vectors.md V-S3. -/
def Obligations.FramePeriod : Prop :=
  ∀ s : State, s.PositionOk →
    ∃ t, repeatExec .step (341 * 262) s = .next t ∧ t.cycle = s.cycle ∧ t.scanline = s.scanline ∧
      t.frame = s.frame + 1 ∧ t.history = s.history ++ [.frame (s.frame + 1) s.frameBuffer]

/-- From every state at cycle 0 of scanline -1 with VBLANK 0, after k STEPs and no other command VBLANK is 1
if and only if k >= 82524 and (k - 82524) mod 89342 < 6820: it is set in STEP 82524 + 89342m and cleared
6820 STEPs later.
Rules: 40_ppu_engine.md section 1 (event timing from reset, derived from R250 to R253); 95_test_vectors.md
S8, S9. -/
def Obligations.VBlankSchedule : Prop :=
  ∀ (s : State) (k : Nat), s.cycle = 0 → s.scanline = -1 → s.vblank = false →
    ∃ t, repeatExec .step k s = .next t ∧
      (t.vblank = true ↔ 82524 ≤ k ∧ (k - 82524) % 89342 < 6820)

/-- Every word that matches the PLOT row decodes to PLOT with its X, Y and C fields. With y < 240 it always
runs: entry y*256 + x holds c, every other entry is as before, and nothing else changes. With y >= 240 it
sets `fault` to PLOT_OUT_OF_RANGE and changes nothing else.
Rules: R270. -/
def Obligations.PlotWritesOneEntry : Prop :=
  (∀ w : Command, w &&& 0xFF0000FF00000000 = 0x1100000000000000 →
    decode w = .instr (.plot (w.extractLsb' 40 8) (w.extractLsb' 48 8) (w.extractLsb' 0 32))) ∧
  ∀ (x y : Byte) (c : Pixel) (s : State),
    (y.toNat < 240 → Memory.wf s.frameBuffer = true →
      ∃ t, exec (.plot x y c) s = .next t ∧
        t = { s with frameBuffer := t.frameBuffer, result := .nothing } ∧
        ∀ a, t.pixel a = if a = y.toNat * 256 + x.toNat then c else s.pixel a) ∧
    (240 ≤ y.toNat →
      exec (.plot x y c) s = .next { s with fault := some (.plotOutOfRange (encode (.plot x y c)) x y) })

/-- Every word that matches the TILE row decodes to TILE with its T, N, R and X fields. TILE always runs: it
emits MapRead of t*4096 + n*16 + r, then MapRead of the same + 8, both below 0x2000, with the answers lo
and hi of the Mapper, whatever they are; the result is bit 7 - x of hi above bit 7 - x of lo; nothing else
changes.
Rules: R260; R261; R262. -/
def Obligations.TileUnpacksOnePixel : Prop :=
  (∀ w : Command, w &&& 0xFFFE00FFFFFFF8F8 = 0x1200000000000000 →
    decode w = .instr (.tile (w.extractLsb' 48 1) (w.extractLsb' 40 8) (w.extractLsb' 8 3)
      (w.extractLsb' 0 3))) ∧
  ∀ (t : BitVec 1) (n : Byte) (r x : BitVec 3) (s : State),
    ∃ lo hi u, exec (.tile t n r x) s = .next u ∧
      u = { s with
        history := s.history ++
          [.mapRead (BitVec.ofNat 16 (t.toNat * 4096 + n.toNat * 16 + r.toNat)) lo,
           .mapRead (BitVec.ofNat 16 (t.toNat * 4096 + n.toNat * 16 + r.toNat + 8)) hi]
        answers := u.answers
        draws := u.draws
        result := .u2 (BitVec.ofBool (hi.getLsbD (7 - x.toNat)) ++ BitVec.ofBool (lo.getLsbD (7 - x.toNat))) } ∧
      t.toNat * 4096 + n.toNat * 16 + r.toNat + 8 ≤ 0x1FFF ∧
      s.Answered u [lo, hi]

/-- The nine words decode to RD.CTRL, RD.MASK, RD.OAMADDR, RD.SCROLL, RD.ADDR, RD.OAMDMA, RD.DMC_CTRL,
RD.DMC_ADDR and RD.DMC_LEN, and each of them, in every state, answers the byte 0 and changes nothing.
Rules: R301; R302; R304; R306; R307; R309; R405; R406; R407. -/
def Obligations.WriteOnlyRegistersReadZero : Prop :=
  ∀ p ∈ [((0x0100000000002000 : Command), Instr.rdCtrl), (0x0100000000002001, .rdMask),
      (0x0100000000002003, .rdOamaddr), (0x0100000000002005, .rdScroll), (0x0100000000002006, .rdAddr),
      (0x0100000000004014, .rdOamdma), (0x0100000000004010, .rdDmcCtrl), (0x0100000000004012, .rdDmcAddr),
      (0x0100000000004013, .rdDmcLen)],
    decode p.1 = .instr p.2 ∧ ∀ s : State, exec p.2 s = .next { s with result := .u8 0x00 }

/-- The word decodes to RD.STATUS. It always runs: the result is PPUSTATUS as it was, bit 7 is cleared, the
toggle is true, latch.address and everything else is unchanged, and nmi is 0 afterwards. That the read
clears VBLANK is the spec's own decision D13.
Rules: R303. -/
def Obligations.StatusReadEffect : Prop :=
  decode 0x0100000000002002 = .instr .rdStatus ∧
  ∀ s : State, ∃ t, exec .rdStatus s = .next t ∧
    t = { s with
      regs := { s.regs with ppustatus := s.regs.ppustatus &&& 0x7F }
      latch := { s.latch with pendingHighByte := true }
      result := .u8 s.regs.ppustatus } ∧
    t.nmi = false

/-- The word decodes to RD.OAMDATA. It always runs: the result is the OAM byte at index OAMADDR, and nothing
changes, OAMADDR included.
Rules: R305. -/
def Obligations.OamDataReadEffect : Prop :=
  decode 0x0100000000002004 = .instr .rdOamdata ∧
  ∀ s : State, exec .rdOamdata s = .next { s with result := .u8 (s.oamByte s.regs.oamaddr.toNat) }

/-- The word decodes to RD.DATA. It always runs: the result is the old readBuffer; the new one is the byte v
that the port of the latch address's range answers, whatever it is, with that port's read event (mirrors
resolved), or P_UNMAPPED_READ with no event and no answer taken from 0x4000 up; latch.address advances by
32 if PPUCTRL bit 2 is 1 and else by 1, wrapping; nothing else changes.
Rules: R308. -/
def Obligations.DataPortReadEffect : Prop :=
  decode 0x0100000000002007 = .instr .rdData ∧
  ∀ s : State, ∃ v t, exec .rdData s = .next t ∧
    t = { s with
      readBuffer := v
      latch := { s.latch with address := s.latch.address + if s.regs.ppuctrl.getLsbD 2 then 32 else 1 }
      history := s.history ++ readEventsAt s.latch.address v
      answers := t.answers
      draws := t.draws
      result := .u8 s.readBuffer } ∧
    (s.latch.address.toNat < 0x4000 → s.Answered t [v]) ∧
    (0x4000 ≤ s.latch.address.toNat → v = s.params.unmappedRead ∧ s.Answered t [])

/-- Every RD word whose A field is none of the twelve mapped addresses decodes to RD.UNMAPPED, which always
runs, answers P_UNMAPPED_READ, whatever byte that parameter is, and changes nothing.
Rules: R310. -/
def Obligations.UnmappedReadEffect : Prop :=
  (∀ w : Command, w &&& 0xFFFFFFFFFFFF0000 = 0x0100000000000000 → w.extractLsb' 0 16 ∉ busAddresses →
    decode w = .instr (.rdUnmapped (w.extractLsb' 0 16))) ∧
  ∀ (a : Addr) (s : State), exec (.rdUnmapped a) s = .next { s with result := .u8 s.params.unmappedRead }

/-- Every word that matches the row decodes to WR.CTRL with its D field. It always runs: PPUCTRL holds d,
nothing else changes, and nmi afterwards is VBLANK and bit 7 of d.
Rules: R321. -/
def Obligations.ControlWriteReevaluatesNmi : Prop :=
  (∀ w : Command, w &&& 0xFFFFFFFFFF00FFFF = 0x0200000000002000 → decode w = .instr (.wrCtrl (w.extractLsb' 16 8))) ∧
  (∀ (d : Byte) (s : State),
    exec (.wrCtrl d) s = .next { s with regs := { s.regs with ppuctrl := d }, result := .nothing }) ∧
  (∀ (d : Byte) (s t : State), exec (.wrCtrl d) s = .next t →
    t.nmi = (s.regs.ppustatus.getLsbD 7 && d.getLsbD 7))

/-- Every word that matches the row of WR.MASK, WR.OAMADDR, WR.DMC_ADDR or WR.DMC_LEN decodes to that command
with its D field. Each always runs: its register holds d and nothing else changes.
Rules: R322; R324; R411; R412. -/
def Obligations.PlainRegisterWrites : Prop :=
  (∀ w : Command, w &&& 0xFFFFFFFFFF00FFFF = 0x0200000000002001 → decode w = .instr (.wrMask (w.extractLsb' 16 8))) ∧
  (∀ (d : Byte) (s : State),
    exec (.wrMask d) s = .next { s with regs := { s.regs with ppumask := d }, result := .nothing }) ∧
  (∀ w : Command, w &&& 0xFFFFFFFFFF00FFFF = 0x0200000000002003 → decode w = .instr (.wrOamaddr (w.extractLsb' 16 8))) ∧
  (∀ (d : Byte) (s : State),
    exec (.wrOamaddr d) s = .next { s with regs := { s.regs with oamaddr := d }, result := .nothing }) ∧
  (∀ w : Command, w &&& 0xFFFFFFFFFF00FFFF = 0x0200000000004012 → decode w = .instr (.wrDmcAddr (w.extractLsb' 16 8))) ∧
  (∀ (d : Byte) (s : State),
    exec (.wrDmcAddr d) s = .next { s with regs := { s.regs with dmcAddr := d }, result := .nothing }) ∧
  (∀ w : Command, w &&& 0xFFFFFFFFFF00FFFF = 0x0200000000004013 → decode w = .instr (.wrDmcLen (w.extractLsb' 16 8))) ∧
  (∀ (d : Byte) (s : State),
    exec (.wrDmcLen d) s = .next { s with regs := { s.regs with dmcLen := d }, result := .nothing })

/-- Every word that matches the row decodes to WR.DMC_CTRL with its D field. It always runs: DMC_CTRL holds d,
RATE and LOOP are its bits 3:0 and 6, and nothing else changes, the current dividerPeriod included.
Rules: 42_dpcm.md R410; 70_reset_and_hazards.md section 3 (register changes during playback). -/
def Obligations.SampleControlWrite : Prop :=
  (∀ w : Command, w &&& 0xFFFFFFFFFF00FFFF = 0x0200000000004010 → decode w = .instr (.wrDmcCtrl (w.extractLsb' 16 8))) ∧
  (∀ (d : Byte) (s : State),
    exec (.wrDmcCtrl d) s = .next { s with regs := { s.regs with dmcCtrl := d }, result := .nothing }) ∧
  (∀ (d : Byte) (s t : State), exec (.wrDmcCtrl d) s = .next t →
    t.field .rate = d.toNat % 16 ∧ t.loop = d.getLsbD 6 ∧ t.dividerPeriod = s.dividerPeriod)

/-- Every WR word for 0x2002 decodes to WR.STATUS and every WR word for an unmapped address to WR.UNMAPPED;
both always run and change nothing at all (the command has no result).
Rules: R323; R330. -/
def Obligations.IgnoredWrites : Prop :=
  (∀ w : Command, w &&& 0xFFFFFFFFFF00FFFF = 0x0200000000002002 →
    decode w = .instr (.wrStatus (w.extractLsb' 16 8))) ∧
  (∀ w : Command, w &&& 0xFFFFFFFFFF000000 = 0x0200000000000000 → w.extractLsb' 0 16 ∉ busAddresses →
    decode w = .instr (.wrUnmapped (w.extractLsb' 16 8) (w.extractLsb' 0 16))) ∧
  (∀ (d : Byte) (s : State), exec (.wrStatus d) s = .next { s with result := .nothing }) ∧
  (∀ (d : Byte) (a : Addr) (s : State), exec (.wrUnmapped d a) s = .next { s with result := .nothing })

/-- Every word that matches the row decodes to WR.OAMDATA with its D field. It always runs: OAMDATA holds d,
OAM[OAMADDR] holds d, every other OAM byte is as before, OAMADDR is one more, wrapping from 0xFF to 0x00,
and nothing else changes.
Rules: R325. -/
def Obligations.OamDataWriteEffect : Prop :=
  (∀ w : Command, w &&& 0xFFFFFFFFFF00FFFF = 0x0200000000002004 →
    decode w = .instr (.wrOamdata (w.extractLsb' 16 8))) ∧
  ∀ (d : Byte) (s : State), Memory.wf s.oam = true →
    ∃ t, exec (.wrOamdata d) s = .next t ∧
      t = { s with
        regs := { s.regs with oamdata := d, oamaddr := s.regs.oamaddr + 1 }
        oam := t.oam
        result := .nothing } ∧
      ∀ a, t.oamByte a = if a = s.regs.oamaddr.toNat then d else s.oamByte a

/-- Every word that matches the row decodes to WR.SCROLL with its D field. It always runs: PPUSCROLL holds d;
with the toggle true scrollX becomes d and with it false scrollY does; the toggle flips; nothing else
changes.
Rules: R326. -/
def Obligations.ScrollWriteEffect : Prop :=
  (∀ w : Command, w &&& 0xFFFFFFFFFF00FFFF = 0x0200000000002005 →
    decode w = .instr (.wrScroll (w.extractLsb' 16 8))) ∧
  ∀ (d : Byte) (s : State),
    exec (.wrScroll d) s = .next
      { s with
        regs := { s.regs with ppuscroll := d }
        scrollX := if s.latch.pendingHighByte = true then d else s.scrollX
        scrollY := if s.latch.pendingHighByte = true then s.scrollY else d
        latch := { s.latch with pendingHighByte := !s.latch.pendingHighByte }
        result := .nothing }

/-- Every word that matches the row decodes to WR.ADDR with its D field. It always runs: PPUADDR holds d; with
the toggle true the high byte of latch.address becomes d and with it false the low byte does, the other
byte kept and all 16 bits kept; the toggle flips; nothing else changes.
Rules: R327. -/
def Obligations.AddressWriteEffect : Prop :=
  (∀ w : Command, w &&& 0xFFFFFFFFFF00FFFF = 0x0200000000002006 →
    decode w = .instr (.wrAddr (w.extractLsb' 16 8))) ∧
  ∀ (d : Byte) (s : State),
    exec (.wrAddr d) s = .next
      { s with
        regs := { s.regs with ppuaddr := d }
        latch :=
          if s.latch.pendingHighByte = true then ⟨d ++ s.latch.address.extractLsb' 0 8, false⟩
          else ⟨s.latch.address.extractLsb' 8 8 ++ d, true⟩
        result := .nothing }

/-- Every word that matches the row decodes to WR.DATA with its D field. It always runs: PPUDATA holds d; the
write event of the latch address's range is emitted (0x3000-0x3EFF as NT at address - 0x1000,
0x3F20-0x3FFF as PAL, none from 0x4000 up); latch.address advances by 32 or 1, wrapping; nothing else
changes, readBuffer included.
Rules: R328. -/
def Obligations.DataPortWriteEffect : Prop :=
  (∀ w : Command, w &&& 0xFFFFFFFFFF00FFFF = 0x0200000000002007 →
    decode w = .instr (.wrData (w.extractLsb' 16 8))) ∧
  ∀ (d : Byte) (s : State),
    exec (.wrData d) s = .next
      { s with
        regs := { s.regs with ppudata := d }
        history := s.history ++ writeEventsAt s.latch.address d
        latch := { s.latch with address := s.latch.address + if s.regs.ppuctrl.getLsbD 2 then 32 else 1 }
        result := .nothing }

/-- Every word that matches the row decodes to WR.OAMDMA with its D field p. It always runs: it emits
PrgRead(p*256 + i, b_i) for i = 0..255 in order, with the 256 answers of program memory, whatever they
are; OAM[(OAMADDR + i) mod 256] = b_i for every i, and no other OAM index changes; OAMDMA holds p;
everything else, OAMADDR included, is unchanged.
Rules: R329. -/
def Obligations.OamDmaCopiesAPage : Prop :=
  (∀ w : Command, w &&& 0xFFFFFFFFFF00FFFF = 0x0200000000004014 →
    decode w = .instr (.wrOamdma (w.extractLsb' 16 8))) ∧
  ∀ (p : Byte) (s : State), Memory.wf s.oam = true →
    ∃ vs t, vs.length = 256 ∧ exec (.wrOamdma p) s = .next t ∧
      t = { s with
        regs := { s.regs with oamdma := p }
        oam := t.oam
        history := s.history ++ vs.mapIdx fun i b => .prgRead (BitVec.ofNat 16 (p.toNat * 256 + i)) b
        answers := t.answers
        draws := t.draws
        result := .nothing } ∧
      s.Answered t vs ∧
      (∀ i, i < 256 → vs[i]? = some (t.oamByte ((s.regs.oamaddr.toNat + i) % 256))) ∧
      (∀ a, 256 ≤ a → t.oamByte a = s.oamByte a)

/-- From every state, RD.STATUS, WR.ADDR h, WR.ADDR l run to a state whose latch.address is h above l with the
toggle true: the SETADDR sequence of R211.
Rules: 30_encoding.md R211 (SETADDR); 41_ppu_registers.md R303, R327; 95_test_vectors.md V-S6. -/
def Obligations.AddressPairSetsTheLatch : Prop :=
  ∀ (h l : Byte) (s : State),
    ∃ t, execAll [.rdStatus, .wrAddr h, .wrAddr l] s = .next t ∧ t.latch = ⟨h ++ l, true⟩

/-- After any sequence of WR.SCROLL and WR.ADDR commands, in any mix, the toggle is its start value, flipped
if and only if the number of writes is odd.
Rules: 41_ppu_registers.md R326, R327; 70_reset_and_hazards.md R526. -/
def Obligations.ToggleIsShared : Prop :=
  ∀ (ws : List (Bool × Byte)) (s : State),
    ∃ t, execAll (ws.map fun w => if w.1 then .wrAddr w.2 else .wrScroll w.2) s = .next t ∧
      t.latch.pendingHighByte = (s.latch.pendingHighByte ^^ decide (ws.length % 2 = 1))

/-- 0x0000-0x1FFF resolves to MAP unchanged, 0x2000-0x2FFF to NT unchanged, 0x3000-0x3EFF to NT at 0x2000 +
((a - 0x3000) mod 0x1000), 0x3F00-0x3F1F to PAL unchanged, 0x3F20-0x3FFF to PAL at 0x3F00 + ((a - 0x3F20)
mod 0x20), and 0x4000-0xFFFF to NONE unchanged.
Rules: R155. -/
def Obligations.ResolveMirrors : Prop :=
  ∀ a : Addr,
    resolve a =
      if a.toNat < 0x2000 then (.map, a)
      else if a.toNat < 0x3000 then (.nt, a)
      else if a.toNat < 0x3F00 then (.nt, BitVec.ofNat 16 (0x2000 + (a.toNat - 0x3000) % 0x1000))
      else if a.toNat < 0x3F20 then (.pal, a)
      else if a.toNat < 0x4000 then (.pal, BitVec.ofNat 16 (0x3F00 + (a.toNat - 0x3F20) % 0x20))
      else (.none, a)

/-- The word decodes to DSTART. It always runs: startPending is true and nothing else changes, so two DSTARTs
before one DUPD act as one.
Rules: R415. -/
def Obligations.StartArms : Prop :=
  decode 0x2100000000000000 = .instr .dstart ∧
  (∀ s : State, exec .dstart s = .next { s with startPending := true, result := .nothing }) ∧
  (∀ s : State, execAll [.dstart, .dstart] s = execAll [.dstart] s)

/-- The word decodes to DSTOP. It always runs: cursorByte is sampleLength and nothing else changes; a DREM
right after it answers 0, active or not.
Rules: 42_dpcm.md R418, R440. -/
def Obligations.StopForcesCompletion : Prop :=
  decode 0x2200000000000000 = .instr .dstop ∧
  (∀ s : State, exec .dstop s = .next { s with cursorByte := s.sampleLength, result := .nothing }) ∧
  (∀ s : State, execAll [.dstop, .drem] s =
    .next { s with cursorByte := s.sampleLength, result := .u32 0 })

/-- The word decodes to DREM. It always runs and changes nothing; in a state that meets the channel invariant
the result is the number sampleLength - cursorByte, at most 4082, if isActive and else 0. The bound holds
in every state that meets the invariant.
Rules: R440. -/
def Obligations.RemainingBytes : Prop :=
  decode 0x2300000000000000 = .instr .drem ∧
  ∀ s : State, ∃ n, exec .drem s = .next { s with result := .u32 n } ∧
    (s.ChannelOk → (n.toNat : Int) = (if s.isActive = true then s.sampleLength - s.cursorByte else 0) ∧
      n.toNat ≤ 4082)

/-- The word decodes to DUPD, and it always runs. With a start pending it acts as with the start applied.
Idle, it changes nothing. With the divider not elapsed, it only counts. With it elapsed and bits left in
the buffered byte, it adds 1 or -1 by the next bit. With the byte finished or no byte: it completes the
sample if cursorByte + 1 >= sampleLength, re-arming only at a natural end with LOOP set; else it fetches
the next byte at fetchAddr and plays its bit 0. Nothing else changes in any case.
Rules: R420; R416; R425. -/
def Obligations.UpdateOneAudioCycle : Prop :=
  decode 0x2000000000000000 = .instr .dupd ∧
  (∀ s : State, s.startPending = true →
    exec .dupd s = exec .dupd { s with
      startPending := false
      dividerPeriod := (s.params.periods.get (Fin.ofNat 16 (s.regs.dmcCtrl.toNat % 16))).val
      dividerCount := (s.params.periods.get (Fin.ofNat 16 (s.regs.dmcCtrl.toNat % 16))).val - 1
      cursorByte := -1
      cursorBit := 0
      sampleAddress := BitVec.ofNat 16 (0xC000 + s.regs.dmcAddr.toNat * 64)
      sampleLength := s.regs.dmcLen.toNat * 16 + 1
      output := 0
      isActive := true }) ∧
  ∀ s : State, s.startPending = false →
    (s.isActive = false → exec .dupd s = .next { s with result := .nothing }) ∧
    (s.isActive = true → s.dividerCount + 1 < s.dividerPeriod →
      exec .dupd s = .next { s with dividerCount := s.dividerCount + 1, result := .nothing }) ∧
    (s.isActive = true → s.dividerPeriod ≤ s.dividerCount + 1 →
      (∀ b, s.buffer = some b → s.cursorBit ≠ 8 →
        exec .dupd s = .next { s with
          dividerCount := 0
          output := if b.getLsbD s.cursorBit then s.output + 1 else s.output - 1
          cursorBit := s.cursorBit + 1
          result := .nothing }) ∧
      (s.buffer = none ∨ s.cursorBit = 8 → s.sampleLength ≤ s.cursorByte + 1 →
        exec .dupd s = .next { s with
          dividerCount := 0
          cursorBit := 0
          cursorByte := s.sampleLength
          isActive := false
          buffer := none
          output := 0
          startPending := decide (s.cursorByte ≠ s.sampleLength) && s.regs.dmcCtrl.getLsbD 6
          result := .nothing }) ∧
      (s.buffer = none ∨ s.cursorBit = 8 → s.cursorByte + 1 < s.sampleLength →
        ∃ v t, exec .dupd s = .next t ∧
          t = { s with
            dividerCount := 0
            cursorByte := s.cursorByte + 1
            cursorBit := 1
            buffer := some v
            output := if v.getLsbD 0 then s.output + 1 else s.output - 1
            history := s.history ++
              [.prgRead (BitVec.ofInt 16 (fetchAddr s.sampleAddress.toNat (s.cursorByte + 1))) v]
            answers := t.answers
            draws := t.draws
            result := .nothing } ∧
          s.Answered t [v]))

/-- fetchAddr(sa, cb) is sa + cb up to 0xFFFF and 0x8000 + ((sa + cb) mod 0xFFFF) beyond; so 0x10000 maps to
0x8001, fetchAddr(0xFFFE, 3) = 0x8002 and fetchAddr(0xFFC0, 64) = 0x8001; for 0 <= sa <= 0xFFFF and 0 <=
cb <= 4080 a wrapped address lies in 0x8000..0x8FF0.
Rules: R421. -/
def Obligations.FetchAddressWraps : Prop :=
  (∀ sa cb : Int, fetchAddr sa cb =
    if sa + cb > 0xFFFF then 0x8000 + (sa + cb) % 0xFFFF else sa + cb) ∧
  fetchAddr 0xFFFE 3 = 0x8002 ∧ fetchAddr 0xFFC0 64 = 0x8001 ∧
  (∀ sa cb : Int, 0 ≤ sa → sa ≤ 0xFFFF → 0 ≤ cb → cb ≤ 4080 → sa + cb > 0xFFFF →
    0x8000 ≤ fetchAddr sa cb ∧ fetchAddr sa cb ≤ 0x8FF0)

/-- From every state with a start pending, let P, L and the address be those of the DMC registers and e = 1 if
a stale byte is buffered, else 0. After n DUPDs, 1 <= n <= 8(L + e)P, the channel is active, the divider
stands at (n - 1) mod P, and the cursors are those of bit (n - 1) / P counted over the e stale and L
sample bytes; exactly the sample bytes begun were fetched, each at its fetchAddr in order. DUPD 1 + 8(L +
e)P completes the sample and re-arms exactly if LOOP is 1.
Rules: 42_dpcm.md R416, R420; 42_dpcm.md sections 1 and 4 (bit times and completion, derived from R420);
95_test_vectors.md V-D4, V-D8, V-D9. -/
def Obligations.SamplePlaybackSchedule : Prop :=
  ∀ s : State, s.startPending = true → ∀ P L e : Nat,
    P = (s.params.periods.get (Fin.ofNat 16 (s.regs.dmcCtrl.toNat % 16))).val →
    L = s.regs.dmcLen.toNat * 16 + 1 → e = s.buffer.toList.length →
    (∀ n, 1 ≤ n → n ≤ 8 * (L + e) * P →
      ∃ t vs, repeatExec .dupd n s = .next t ∧ t.isActive = true ∧ t.startPending = false ∧
        t.dividerPeriod = P ∧ t.dividerCount = (n - 1) % P ∧ t.sampleLength = L ∧
        t.cursorByte = ((n - 1) / P / 8 : Nat) - (e : Int) ∧ t.cursorBit = (n - 1) / P % 8 + 1 ∧
        vs.length + e = (n - 1) / P / 8 + 1 ∧
        t.history = s.history ++ vs.mapIdx (fun k v =>
          .prgRead (BitVec.ofInt 16 (fetchAddr (0xC000 + s.regs.dmcAddr.toNat * 64) k)) v) ∧
        s.Answered t vs) ∧
    (∃ t, repeatExec .dupd (1 + 8 * (L + e) * P) s = .next t ∧ t.isActive = false ∧ t.buffer = none ∧
      t.output = 0 ∧ t.cursorByte = L ∧ t.cursorBit = 0 ∧ t.dividerCount = 0 ∧
      t.startPending = s.regs.dmcCtrl.getLsbD 6)

/-- From every active state with no start pending, whose cursor a DSTOP has put at sampleLength and which
meets the channel invariant, there is an m with 1 <= m <= 8 * dividerPeriod such that the channel is
active after each of the first m - 1 DUPDs and inactive, with no start pending even if LOOP is 1, after m.
Rules: 70_reset_and_hazards.md section 3 (stop latency, derived from R418, R422, R423); 42_dpcm.md R420. -/
def Obligations.StopLatency : Prop :=
  ∀ s : State, s.ChannelOk → s.isActive = true → s.startPending = false → s.cursorByte = s.sampleLength →
    ∃ m, 1 ≤ m ∧ m ≤ 8 * s.dividerPeriod ∧
      (∀ k, k < m → ∃ u, repeatExec .dupd k s = .next u ∧ u.isActive = true) ∧
      ∃ t, repeatExec .dupd m s = .next t ∧ t.isActive = false ∧ t.startPending = false

/-- With a start pending, DSTOP then DUPD leads to exactly the state that DUPD alone leads to; and DSTOP,
DSTART, DUPD leads to exactly the state that DSTART, DUPD leads to.
Rules: 70_reset_and_hazards.md section 3 (a DSTOP can be lost, derived from R415, R418, R420). -/
def Obligations.StopBeforeTheStartIsLost : Prop :=
  (∀ s : State, s.startPending = true → execAll [.dstop, .dupd] s = execAll [.dupd] s) ∧
  (∀ s : State, execAll [.dstop, .dstart, .dupd] s = execAll [.dstart, .dupd] s)

/-- The word decodes to RESET. It always runs: every state item the spec lists is that of the power-on state,
history and fault are unchanged (so no event is emitted), and so are the model's own driver queue,
collaborator answers and parameters (log entries 1, 2 and 5); the armed start is discarded and nmi is 0.
Rules: R500. -/
def Obligations.ResetRestoresEverything : Prop :=
  decode 0x3000000000000000 = .instr .reset ∧
  ∀ s : State, ∃ t, exec .reset s = .next t ∧
    t = { State.reset with
      history := s.history
      fault := s.fault
      commands := s.commands
      answers := s.answers
      draws := s.draws
      params := s.params } ∧
    t.startPending = false ∧ t.nmi = false

/-- At power-on every register, every OAM byte and every frame-buffer entry is 0, the position is (0, -1) in
frame 0, the latch is (0x0000, true), scrollX, scrollY and readBuffer are 0, the channel is idle with
nothing pending, cursorByte -1, an EMPTY buffer and output 0, and history is empty with no fault.
Rules: R110. -/
def Obligations.PowerOnState : Prop :=
  (∀ r, State.reset.value r = 0x00) ∧ (∀ i, State.reset.oamByte i = 0x00) ∧
  (∀ i, State.reset.pixel i = 0) ∧
  State.reset.cycle = 0 ∧ State.reset.scanline = -1 ∧ State.reset.frame = 0 ∧
  State.reset.latch = ⟨0x0000, true⟩ ∧ State.reset.scrollX = 0x00 ∧ State.reset.scrollY = 0x00 ∧
  State.reset.readBuffer = 0x00 ∧ State.reset.isActive = false ∧ State.reset.startPending = false ∧
  State.reset.dividerPeriod = 0 ∧ State.reset.dividerCount = 0 ∧ State.reset.cursorByte = -1 ∧
  State.reset.cursorBit = 0 ∧ State.reset.sampleAddress = 0 ∧ State.reset.sampleLength = 0 ∧
  State.reset.buffer = none ∧ State.reset.output = 0 ∧ State.reset.history = [] ∧
  State.reset.fault = none

/-- The invariant of the reachable states holds at power-on.
Rules: 10_state.md R63, R80, R81, R92 to R97, R110. -/
def Obligations.PowerOnMeetsTheInvariant : Prop :=
  State.reset.Inv

/-- From every state that meets the invariant (position in range, PPUSTATUS bits 6:0 zero, both memories
canonical and within their sizes, the channel's cursors, divider, sample and accumulator in their bounds,
every recorded event within its port's range), a step that answers a next state leads to one that meets
it.
Rules: 10_state.md R63, R80, R81, R86, R87, R92 to R97; 20_memory.md R165, R166, R168. -/
def Obligations.StepKeepsTheInvariant : Prop :=
  ∀ s t : State, s.Inv → step s = .next t → t.Inv

/-- From every state that meets the invariant, every number of steps that answers a next state leads to one
whose output lies within 8 * 4082 = 32656 of 0: a signed 16-bit register would hold it.
Rules: 10_state.md section 5 (the bound on output, derived from R420). -/
def Obligations.OutputStaysBounded : Prop :=
  ∀ (s t : State) (n : Nat), s.Inv → Host.Core.run Sys2Proof.core n s = .next t → |t.output| ≤ 32656

/-- The history after a step is the history before with events appended, RESET included, and each appended
event is a Frame or names an address within its port's range: MAP 0x0000-0x1FFF, NT 0x2000-0x2FFF, PAL
0x3F00-0x3F1F.
Rules: 10_state.md R102; 20_memory.md R165, R166, R175, R176. -/
def Obligations.HistoryOnlyGrows : Prop :=
  ∀ s t : State, step s = .next t →
    ∃ es, t.history = s.history ++ es ∧ ∀ e ∈ es, e.isFrame = true ∨ e.wf = true

/-- A register's value changes only by RESET and by the commands the spec names as writing it: PPUSTATUS by
STEP and RD.STATUS, OAMADDR by WR.OAMADDR and WR.OAMDATA, every other register by the WR of its own
address.
Rules: 10_state.md R61 to R72; 20_memory.md R173. -/
def Obligations.RegistersChangeOnlyByTheirCommands : Prop :=
  ∀ (i : Instr) (s t : State) (r : RegName), exec i s = .next t → mayWrite i r = false →
    t.value r = s.value r

/-- If a command changes the frame buffer, it is RESET or a PLOT with y < 240: STEP draws nothing, and the
buffer is neither cleared nor swapped at a frame boundary.
Rules: 10_state.md R87; 40_ppu_engine.md R255, R256; 70_reset_and_hazards.md R531. -/
def Obligations.FrameBufferChangesOnlyByPlot : Prop :=
  ∀ (i : Instr) (s t : State), exec i s = .next t → t.frameBuffer ≠ s.frameBuffer →
    i = .reset ∨ ∃ x y c, i = .plot x y c ∧ y.toNat < 240

/-- Every command but STEP and RESET leaves cycle, scanline and frame unchanged.
Rules: 10_state.md R51, R80, R81, R82. -/
def Obligations.PositionMovesOnlyByStep : Prop :=
  ∀ (i : Instr) (s t : State), exec i s = .next t → i ≠ .step → i ≠ .reset →
    t.cycle = s.cycle ∧ t.scanline = s.scanline ∧ t.frame = s.frame

/-- In every state nmi is bit 7 of PPUSTATUS and bit 7 of PPUCTRL; two states with the same two registers have
the same nmi, whatever else they hold.
Rules: R100. -/
def Obligations.NmiIsALevel : Prop :=
  (∀ s : State, s.nmi = (s.regs.ppustatus.getLsbD 7 && s.regs.ppuctrl.getLsbD 7)) ∧
  (∀ s t : State, t.regs.ppustatus = s.regs.ppustatus → t.regs.ppuctrl = s.regs.ppuctrl → t.nmi = s.nmi)

/-- If a command raises nmi, it is the STEP beginning at (1, 241) with NMI_EN 1, or a WR.CTRL with bit 7 set
while VBLANK is 1. If a command lowers nmi, it is RD.STATUS, the STEP beginning at (1, -1), a WR.CTRL with
bit 7 clear, or RESET.
Rules: 60_exceptions.md R460; 70_reset_and_hazards.md R500, R528. -/
def Obligations.NmiChangesOnlyWhereTheSpecSays : Prop :=
  ∀ (i : Instr) (s t : State), exec i s = .next t →
    (s.nmi = false → t.nmi = true →
      (i = .step ∧ s.scanline = 241 ∧ s.cycle = 1 ∧ s.nmiEnabled = true) ∨
      ∃ d, i = .wrCtrl d ∧ d.getLsbD 7 = true ∧ s.vblank = true) ∧
    (s.nmi = true → t.nmi = false →
      i = .rdStatus ∨ (i = .step ∧ s.scanline = -1 ∧ s.cycle = 1) ∨
      (∃ d, i = .wrCtrl d ∧ d.getLsbD 7 = false) ∨ i = .reset)

/-- Every command that is neither a SampleChannel command nor RESET leaves the three DMC registers and every
piece of SampleChannel state unchanged.
Rules: 00_scope.md R1, R4; 10_state.md R90 to R97. -/
def Obligations.PictureCommandsLeaveTheChannel : Prop :=
  ∀ (i : Instr) (s t : State), exec i s = .next t → isSampleCommand i = false → i ≠ .reset →
    t.regs.dmcCtrl = s.regs.dmcCtrl ∧ t.regs.dmcAddr = s.regs.dmcAddr ∧ t.regs.dmcLen = s.regs.dmcLen ∧
    t.isActive = s.isActive ∧ t.startPending = s.startPending ∧ t.dividerPeriod = s.dividerPeriod ∧
    t.dividerCount = s.dividerCount ∧ t.cursorByte = s.cursorByte ∧ t.cursorBit = s.cursorBit ∧
    t.sampleAddress = s.sampleAddress ∧ t.sampleLength = s.sampleLength ∧ t.buffer = s.buffer ∧
    t.output = s.output

/-- Every SampleChannel command leaves the nine PPU registers, the position, the latch, the scroll bytes, the
read buffer, OAM, the frame buffer, the fault and nmi unchanged.
Rules: 00_scope.md R1, R4; 10_state.md R80 to R87. -/
def Obligations.ChannelCommandsLeaveThePicture : Prop :=
  ∀ (i : Instr) (s t : State), exec i s = .next t → isSampleCommand i = true →
    (∀ r, r ≠ .dmcCtrl → r ≠ .dmcAddr → r ≠ .dmcLen → t.value r = s.value r) ∧
    t.cycle = s.cycle ∧ t.scanline = s.scanline ∧ t.frame = s.frame ∧ t.latch = s.latch ∧
    t.scrollX = s.scrollX ∧ t.scrollY = s.scrollY ∧ t.readBuffer = s.readBuffer ∧ t.oam = s.oam ∧
    t.frameBuffer = s.frameBuffer ∧ t.fault = s.fault ∧ t.nmi = s.nmi

/-- For every field f of the spec's layouts: if f is writable, assigning v makes f read as v mod 2^width and
leaves every other field of the same register as it was; if f is read-only, the assignment changes
nothing.
Rules: 10_state.md R53, R54, R57. -/
def Obligations.FieldWritesAreExact : Prop :=
  ∀ (s : State) (f g : Field) (v : Nat), f ∈ f.reg.fields → g ∈ f.reg.fields →
    (f.writable = true → (s.writeField f v).field f = v % 2 ^ f.bitWidth) ∧
    (f.writable = true → g ≠ f → (s.writeField f v).field g = s.field g) ∧
    (f.writable = false → s.writeField f v = s)

/-- For every list of registers with their fields, the check finds no error if and only if every field has
width at least 1, ends by bit 7, and no two fields of one register share a bit; the layouts of the spec
pass.
Rules: 10_state.md R57; 60_exceptions.md R452. -/
def Obligations.LayoutCheckIsExact : Prop :=
  (∀ l : List (RegName × List Field), layoutError l = none ↔
    ∀ p ∈ l, (∀ f ∈ p.2, 0 < f.bitWidth ∧ f.bitOffset + f.bitWidth ≤ 8) ∧
      p.2.Pairwise fun f g => ¬ ∃ b, (f.bitOffset ≤ b ∧ b < f.bitOffset + f.bitWidth) ∧
        (g.bitOffset ≤ b ∧ b < g.bitOffset + g.bitWidth)) ∧
  layoutCheck = none

/-- For all x, start, size and value, getBits(setBits(x, start, size, value), start, size) = value mod 2^size;
getBits is bits start to start + size - 1 of x; setBits has the low bits of value there and every other
bit of x. For every integer x, toSigned8(x) lies in -128..127 and agrees with x mod 256.
Rules: R22; R24. -/
def Obligations.BitPrimitives : Prop :=
  (∀ x start size v : Nat, BitOps.getBits (BitOps.setBits x start size v) start size = v % 2 ^ size) ∧
  (∀ x start size k : Nat,
    (BitOps.getBits x start size).testBit k = (decide (k < size) && x.testBit (start + k))) ∧
  (∀ x start size v k : Nat, (BitOps.setBits x start size v).testBit k =
    if start ≤ k ∧ k < start + size then v.testBit (k - start) else x.testBit k) ∧
  (∀ x : Int, -128 ≤ BitOps.toSigned8 x ∧ BitOps.toSigned8 x ≤ 127 ∧ BitOps.toSigned8 x % 256 = x % 256)
end

