-- ==== Sys2Proof/Laws/BitOps.lean ====
section
/-! SUPPORT. The bit-manipulation primitives on values that come from bit vectors. -/

namespace Sys2Proof.Machine

/-- `toUnsigned8` of a natural number. -/
@[simp] theorem BitOps.toUnsigned8_natCast (n : Nat) : BitOps.toUnsigned8 (n : Int) = n % 256 := by
  simp only [BitOps.toUnsigned8]; omega

/-- `setValue` of a byte stores that byte. -/
@[simp] theorem BitOps.store_byte (d : Byte) : BitVec.ofNat 8 (BitOps.toUnsigned8 (d.toNat : Int)) = d := by
  have h := d.isLt
  rw [BitOps.toUnsigned8_natCast, Nat.mod_eq_of_lt h, BitVec.ofNat_toNat, BitVec.setWidth_eq]

/-- `setValue` of a value and 1 stores the byte's successor, wrapping (R325). -/
theorem BitOps.store_succ (d : Byte) : BitVec.ofNat 8 (BitOps.toUnsigned8 ((d.toNat : Int) + 1)) = d + 1 := by
  have h : BitOps.toUnsigned8 ((d.toNat : Int) + 1) = (d.toNat + 1) % 256 := by
    simp only [BitOps.toUnsigned8]; omega
  rw [h]
  apply BitVec.eq_of_toNat_eq
  simp

/-- `getBit` of a bit vector is its bit. -/
theorem BitOps.getBit_toNat {w : Nat} (b : BitVec w) (i : Nat) :
    BitOps.getBit b.toNat i = (b.getLsbD i).toNat := by
  simp [BitOps.getBit, BitVec.getLsbD, Nat.testBit, Nat.and_one_is_mod]
  rcases Nat.mod_two_eq_zero_or_one (b.toNat >>> i) with h | h <;> simp [h]

/-- Bit 7 set by `setBit`, as a byte (R251). -/
theorem BitOps.setBit7_byte (b : Byte) :
    BitVec.ofNat 8 (BitOps.toUnsigned8 ((BitOps.setBit b.toNat 7 1 : Nat) : Int)) = b ||| 0x80 := by
  rw [BitOps.toUnsigned8_natCast]
  revert b; decide

/-- A byte masked, as a byte (R252, R303). -/
theorem BitOps.mask_byte (b m : Byte) :
    BitVec.ofNat 8 (BitOps.toUnsigned8 ((b.toNat &&& m.toNat : Nat) : Int)) = b &&& m := by
  rw [← BitVec.toNat_and, BitOps.store_byte]

/-- A one-bit field is the bit (R53). -/
theorem BitOps.getBits_one {w : Nat} (b : BitVec w) (i : Nat) :
    BitOps.getBits b.toNat i 1 = (b.getLsbD i).toNat := by
  rw [← BitOps.getBit_toNat]; rfl

/-- VBLANK is bit 7 of PPUSTATUS (R63). -/
theorem State.vblank_eq (s : State) : s.vblank = s.regs.ppustatus.getLsbD 7 := by
  simp only [State.vblank, State.field, Field.vblank, BitOps.getBits_one, State.value, Regs.get]
  cases s.regs.ppustatus.getLsbD 7 <;> rfl

/-- NMI_EN is bit 7 of PPUCTRL (R61). -/
theorem State.nmiEnabled_eq (s : State) : s.nmiEnabled = s.regs.ppuctrl.getLsbD 7 := by
  simp only [State.nmiEnabled, State.field, Field.nmiEn, BitOps.getBits_one, State.value, Regs.get]
  cases s.regs.ppuctrl.getLsbD 7 <;> rfl

/-- LOOP is bit 6 of DMC_CTRL (R70). -/
theorem State.loop_eq (s : State) : s.loop = s.regs.dmcCtrl.getLsbD 6 := by
  simp only [State.loop, State.field, Field.loop, BitOps.getBits_one, State.value, Regs.get]
  cases s.regs.dmcCtrl.getLsbD 6 <;> rfl

/-- The data port's step by bit 2 of PPUCTRL (R335). -/
theorem State.inc_eq (s : State) : s.inc = if s.regs.ppuctrl.getLsbD 2 then 32 else 1 := by
  simp only [State.inc, State.field, Field.inc, BitOps.getBits_one, State.value, Regs.get]
  cases s.regs.ppuctrl.getLsbD 2 <;> rfl

/-- RATE is the low four bits of DMC_CTRL (R70). -/
theorem State.rate_eq (s : State) : s.field .rate = s.regs.dmcCtrl.toNat % 16 := by
  simp only [State.field, Field.rate, State.value, Regs.get, BitOps.getBits]
  exact Nat.and_two_pow_sub_one_eq_mod _ 4

/-- The first address write of a pair replaces the high byte (R327). -/
theorem BitOps.latch_high (d : Byte) (a : Addr) :
    BitVec.ofNat 16 (BitOps.buildU16 d.toNat (BitOps.lowByte a.toNat)) = d ++ a.setWidth 8 := by
  apply BitVec.eq_of_toNat_eq
  have hd := d.isLt
  have h1 : d.toNat &&& 0xFF = d.toNat := by
    rw [show (0xFF : Nat) = 2 ^ 8 - 1 from rfl, Nat.and_two_pow_sub_one_eq_mod]; omega
  have h2 : a.toNat &&& 0xFF = a.toNat % 256 := Nat.and_two_pow_sub_one_eq_mod _ 8
  have h3 : a.toNat % 256 &&& 0xFF = a.toNat % 256 := by
    rw [show (0xFF : Nat) = 2 ^ 8 - 1 from rfl, Nat.and_two_pow_sub_one_eq_mod]; omega
  simp only [BitOps.buildU16, BitOps.lowByte, h1, h2, h3, BitVec.toNat_ofNat, BitVec.toNat_append,
    BitVec.toNat_setWidth]
  rw [Nat.mod_eq_of_lt]
  rw [← Nat.shiftLeft_add_eq_or_of_lt (by omega : a.toNat % 256 < 2 ^ 8), Nat.shiftLeft_eq]
  omega

/-- The second address write of a pair replaces the low byte (R327). -/
theorem BitOps.latch_low (d : Byte) (a : Addr) :
    BitVec.ofNat 16 (BitOps.buildU16 (BitOps.highByte a.toNat) d.toNat) = a.extractLsb' 8 8 ++ d := by
  apply BitVec.eq_of_toNat_eq
  have hd := d.isLt
  have ha := a.isLt
  have h1 : d.toNat &&& 0xFF = d.toNat := by
    rw [show (0xFF : Nat) = 2 ^ 8 - 1 from rfl, Nat.and_two_pow_sub_one_eq_mod]; omega
  have h2 : ∀ n : Nat, n &&& 0xFF = n % 256 := fun n => Nat.and_two_pow_sub_one_eq_mod _ 8
  simp only [BitOps.buildU16, BitOps.highByte, h1, BitVec.toNat_ofNat, BitVec.toNat_append,
    BitVec.extractLsb'_toNat]
  rw [h2, h2, Nat.mod_mod, Nat.mod_eq_of_lt]
  rw [← Nat.shiftLeft_add_eq_or_of_lt (by omega : d.toNat < 2 ^ 8), Nat.shiftLeft_eq]
  omega

/-- The latch advance is a 16-bit sum (R335). -/
theorem BitOps.latch_sum (a : Addr) (n : Nat) :
    BitVec.ofNat 16 ((a.toNat + n) % 65536) = a + BitVec.ofNat 16 n := by
  apply BitVec.eq_of_toNat_eq
  simp [Nat.add_mod]

/-- The colour index is the two bits at column `x`, counted from the left (R262). -/
theorem colorIndex_eq (hi lo : Byte) (x : BitVec 3) :
    colorIndex hi lo x =
      BitVec.ofBool (hi.getLsbD (7 - x.toNat)) ++ BitVec.ofBool (lo.getLsbD (7 - x.toNat)) := by
  simp only [colorIndex, BitOps.getBit_toNat]
  cases hi.getLsbD (7 - x.toNat) <;> cases lo.getLsbD (7 - x.toNat) <;> rfl

end Sys2Proof.Machine
end

