-- ==== Sys2Proof/Laws/Decode.lean ====
section
/-! SUPPORT. The formats of 30_encoding.md R201 bit by bit and field by field, what the masks of R204 keep,
and which rows can select a word. -/

namespace Sys2Proof

/-! ### The formats, bit by bit -/

theorem formatN_bit (op : Byte) (i : Nat) :
    (formatN op).getLsbD i = if i < 56 then false else op.getLsbD (i - 56) := by
  change BitVec.getLsbD (w := 8 + 56) (op ++ (0 : BitVec 56)) i = _
  rw [BitVec.getLsbD_append]
  split <;> simp

theorem formatA_bit (op : Byte) (a : Addr) (i : Nat) :
    (formatA op a).getLsbD i =
      if i < 16 then a.getLsbD i else if i < 56 then false else op.getLsbD (i - 56) := by
  change BitVec.getLsbD (w := 8 + 40 + 16) (op ++ (0 : BitVec 40) ++ a) i = _
  rw [BitVec.getLsbD_append, BitVec.getLsbD_append]
  repeat' split
  all_goals first | omega | rfl | simp

theorem formatAD_bit (op d : Byte) (a : Addr) (i : Nat) :
    (formatAD op d a).getLsbD i =
      if i < 16 then a.getLsbD i else if i < 24 then d.getLsbD (i - 16)
      else if i < 56 then false else op.getLsbD (i - 56) := by
  change BitVec.getLsbD (w := 8 + 32 + 8 + 16) (op ++ (0 : BitVec 32) ++ d ++ a) i = _
  rw [BitVec.getLsbD_append, BitVec.getLsbD_append, BitVec.getLsbD_append]
  repeat' split
  all_goals first | omega | rfl | simp

theorem formatP_bit (op y x : Byte) (c : Pixel) (i : Nat) :
    (formatP op y x c).getLsbD i =
      if i < 32 then c.getLsbD i else if i < 40 then false else if i < 48 then x.getLsbD (i - 40)
      else if i < 56 then y.getLsbD (i - 48) else op.getLsbD (i - 56) := by
  change BitVec.getLsbD (w := 8 + 8 + 8 + 8 + 32) (op ++ y ++ x ++ (0 : BitVec 8) ++ c) i = _
  rw [BitVec.getLsbD_append, BitVec.getLsbD_append, BitVec.getLsbD_append, BitVec.getLsbD_append]
  repeat' split
  all_goals first | omega | rfl | simp

theorem formatT_bit (op : Byte) (t : BitVec 1) (n : Byte) (r x : BitVec 3) (i : Nat) :
    (formatT op t n r x).getLsbD i =
      if i < 3 then x.getLsbD i else if i < 8 then false else if i < 11 then r.getLsbD (i - 8)
      else if i < 40 then false else if i < 48 then n.getLsbD (i - 40) else if i < 49 then t.getLsbD (i - 48)
      else if i < 56 then false else op.getLsbD (i - 56) := by
  change BitVec.getLsbD (w := 8 + 7 + 1 + 8 + 29 + 3 + 5 + 3)
    (op ++ (0 : BitVec 7) ++ t ++ n ++ (0 : BitVec 29) ++ r ++ (0 : BitVec 5) ++ x) i = _
  rw [BitVec.getLsbD_append, BitVec.getLsbD_append, BitVec.getLsbD_append, BitVec.getLsbD_append,
    BitVec.getLsbD_append, BitVec.getLsbD_append, BitVec.getLsbD_append]
  repeat' split
  all_goals first | omega | rfl | simp

/-! ### The fields of a format -/

/-- A field of a word is the operand placed there. -/
theorem extract_eq {n : Nat} {w : Command} {v : BitVec n} (k : Nat)
    (h : ∀ i, i < n → w.getLsbD (k + i) = v.getLsbD i) : w.extractLsb' k n = v := by
  apply BitVec.eq_of_getLsbD_eq
  intro i hi
  rw [BitVec.getLsbD_extractLsb', h i hi]
  simp [hi]

@[simp] theorem fieldOp_formatN (op : Byte) : fieldOp (formatN op) = op :=
  extract_eq 56 fun i hi => by rw [formatN_bit, if_neg (by omega)]; congr 1; omega

@[simp] theorem fieldOp_formatA (op : Byte) (a : Addr) : fieldOp (formatA op a) = op :=
  extract_eq 56 fun i hi => by rw [formatA_bit, if_neg (by omega), if_neg (by omega)]; congr 1; omega

@[simp] theorem fieldA_formatA (op : Byte) (a : Addr) : fieldA (formatA op a) = a :=
  extract_eq 0 fun i hi => by rw [formatA_bit, if_pos (by omega)]; congr 1; omega

@[simp] theorem fieldOp_formatAD (op d : Byte) (a : Addr) : fieldOp (formatAD op d a) = op :=
  extract_eq 56 fun i hi => by
    rw [formatAD_bit, if_neg (by omega), if_neg (by omega), if_neg (by omega)]; congr 1; omega

@[simp] theorem fieldD_formatAD (op d : Byte) (a : Addr) : fieldD (formatAD op d a) = d :=
  extract_eq 16 fun i hi => by rw [formatAD_bit, if_neg (by omega), if_pos (by omega)]; congr 1; omega

@[simp] theorem fieldA_formatAD (op d : Byte) (a : Addr) : fieldA (formatAD op d a) = a :=
  extract_eq 0 fun i hi => by rw [formatAD_bit, if_pos (by omega)]; congr 1; omega

@[simp] theorem fieldOp_formatP (op y x : Byte) (c : Pixel) : fieldOp (formatP op y x c) = op :=
  extract_eq 56 fun i hi => by
    rw [formatP_bit, if_neg (by omega), if_neg (by omega), if_neg (by omega), if_neg (by omega)]
    congr 1; omega

@[simp] theorem fieldY_formatP (op y x : Byte) (c : Pixel) : fieldY (formatP op y x c) = y :=
  extract_eq 48 fun i hi => by
    rw [formatP_bit, if_neg (by omega), if_neg (by omega), if_neg (by omega), if_pos (by omega)]
    congr 1; omega

@[simp] theorem fieldPX_formatP (op y x : Byte) (c : Pixel) : fieldPX (formatP op y x c) = x :=
  extract_eq 40 fun i hi => by
    rw [formatP_bit, if_neg (by omega), if_neg (by omega), if_pos (by omega)]; congr 1; omega

@[simp] theorem fieldC_formatP (op y x : Byte) (c : Pixel) : fieldC (formatP op y x c) = c :=
  extract_eq 0 fun i hi => by rw [formatP_bit, if_pos (by omega)]; congr 1; omega

@[simp] theorem fieldOp_formatT (op : Byte) (t : BitVec 1) (n : Byte) (r x : BitVec 3) :
    fieldOp (formatT op t n r x) = op :=
  extract_eq 56 fun i hi => by
    rw [formatT_bit, if_neg (by omega), if_neg (by omega), if_neg (by omega), if_neg (by omega),
      if_neg (by omega), if_neg (by omega), if_neg (by omega)]
    congr 1; omega

@[simp] theorem fieldT_formatT (op : Byte) (t : BitVec 1) (n : Byte) (r x : BitVec 3) :
    fieldT (formatT op t n r x) = t :=
  extract_eq 48 fun i hi => by
    rw [formatT_bit, if_neg (by omega), if_neg (by omega), if_neg (by omega), if_neg (by omega),
      if_neg (by omega), if_pos (by omega)]
    congr 1; omega

@[simp] theorem fieldN_formatT (op : Byte) (t : BitVec 1) (n : Byte) (r x : BitVec 3) :
    fieldN (formatT op t n r x) = n :=
  extract_eq 40 fun i hi => by
    rw [formatT_bit, if_neg (by omega), if_neg (by omega), if_neg (by omega), if_neg (by omega),
      if_pos (by omega)]
    congr 1; omega

@[simp] theorem fieldR_formatT (op : Byte) (t : BitVec 1) (n : Byte) (r x : BitVec 3) :
    fieldR (formatT op t n r x) = r :=
  extract_eq 8 fun i hi => by
    rw [formatT_bit, if_neg (by omega), if_neg (by omega), if_pos (by omega)]; congr 1; omega

@[simp] theorem fieldTX_formatT (op : Byte) (t : BitVec 1) (n : Byte) (r x : BitVec 3) :
    fieldTX (formatT op t n r x) = x :=
  extract_eq 0 fun i hi => by rw [formatT_bit, if_pos (by omega)]; congr 1; omega

/-! ### Masks -/

/-- A masked word is a pattern exactly when the bits the mask keeps agree, for a pattern within its
mask. -/
theorem and_eq_iff (w m p : Command) (hp : p &&& m = p) :
    w &&& m = p ↔ ∀ i, i < 64 → m.getLsbD i = true → w.getLsbD i = p.getLsbD i := by
  constructor
  · rintro h i - hi
    have := congrArg (·.getLsbD i) h
    simpa [hi] using this
  · intro h
    apply BitVec.eq_of_getLsbD_eq
    intro i hi
    have hq := congrArg (·.getLsbD i) hp
    simp only [BitVec.getLsbD_and] at hq ⊢
    cases hm : m.getLsbD i
    · rw [hm] at hq; simpa using hq
    · rw [h i hi hm]; simp

/-- A word with the bits of a mask clear. -/
theorem and_eq_zero_iff (w m : Command) :
    w &&& m = 0 ↔ ∀ i, i < 64 → m.getLsbD i = true → w.getLsbD i = false := by
  rw [and_eq_iff w m 0 (by simp)]
  simp

/-- Every row's mask keeps the whole of OP (R204). -/
theorem rows_keep_op : ∀ r ∈ rows, fieldOp r.mask = 0xFF ∧ r.pattern &&& r.mask = r.pattern := by
  have h : rows.all (fun r => fieldOp r.mask == 0xFF && r.pattern &&& r.mask == r.pattern) = true := by
    decide
  intro r hr
  have := List.all_eq_true.mp h r hr
  simpa using this

/-- A row selects only words with its own OP. -/
theorem selects_op {r : Row} (hr : r ∈ rows) {w : Command} (h : r.selects w = true) :
    fieldOp w = fieldOp r.pattern := by
  have hw : w &&& r.mask = r.pattern := by simpa [Row.selects] using h
  have hm := (rows_keep_op r hr).1
  rw [← hw]
  unfold fieldOp at hm ⊢
  rw [BitVec.extractLsb'_and, hm]
  apply BitVec.eq_of_getLsbD_eq
  intro i hi
  have : (0xFF : Byte).getLsbD i = true := by
    have : ∀ i, i < 8 → (0xFF : Byte).getLsbD i = true := by decide
    exact this i hi
  simp only [BitVec.getLsbD_and, this, Bool.and_true]

/-- So only the rows of a word's OP can select it. -/
theorem find_rows {w : Command} {op : Byte} (h : fieldOp w = op) :
    rows.find? (·.selects w) = (rows.filter fun r => fieldOp r.pattern == op).find? (·.selects w) := by
  have key : ∀ l : List Row, (∀ r ∈ l, r ∈ rows) →
      l.find? (·.selects w) = (l.filter fun r => fieldOp r.pattern == op).find? (·.selects w) := by
    intro l hl
    induction l with
    | nil => rfl
    | cons r rest ih =>
      have ih := ih fun q hq => hl q (List.mem_cons_of_mem _ hq)
      by_cases hs : r.selects w = true
      · have := selects_op (hl r List.mem_cons_self) hs
        rw [List.filter_cons_of_pos (by simp [← this, h])]
        simp only [List.find?_cons, hs]
      · by_cases hf : (fieldOp r.pattern == op) = true
        · simp only [List.filter_cons, hf, if_true, List.find?_cons, hs, ih]
        · simp only [List.filter_cons, hf, List.find?_cons, hs, ih]
          rfl
  exact key rows fun _ hr => hr

/-- The rows of each OP of R203. -/
theorem rows_of_op :
    (rows.filter fun r => fieldOp r.pattern == 0x01) = readRows ∧
    (rows.filter fun r => fieldOp r.pattern == 0x02) = writeRows :=
  ⟨rfl, rfl⟩

end Sys2Proof
end

