-- ==== Sys2Proof/Laws/Layout.lean ====
section
/-! SUPPORT. What the tests of the layout check say (10_state.md R57, 60_exceptions.md R452). -/

namespace Sys2Proof.Machine

/-- Two fields overlap exactly when some bit lies in both (R57). -/
theorem Field.overlaps_iff (f g : Field) :
    f.overlaps g = true ↔
      ∃ b, (f.bitOffset ≤ b ∧ b < f.bitOffset + f.bitWidth) ∧
        (g.bitOffset ≤ b ∧ b < g.bitOffset + g.bitWidth) := by
  simp only [Field.overlaps, decide_eq_true_eq]
  constructor
  · exact fun h => ⟨max f.bitOffset g.bitOffset, by omega⟩
  · rintro ⟨b, h⟩
    omega

/-- A field's declaration is valid exactly when it has a bit and ends by bit 7 (R452). -/
theorem Field.valid_iff (f : Field) : f.valid = true ↔ 0 < f.bitWidth ∧ f.bitOffset + f.bitWidth ≤ 8 := by
  simp [Field.valid]

end Sys2Proof.Machine
end

