-- ==== Sys2Proof/Laws/Memory.lean ====
section
/-! SUPPORT. The laws of the block's own memories: read after write, and the canonical form kept. -/

namespace Sys2Proof.Machine

variable {w : Nat}

/-- An index below every listed one reads as an unlisted entry. -/
theorem Memory.read_of_all_lt {m : List (Nat × BitVec w)} {a : Nat} (h : m.all (fun c => a < c.1) = true) :
    Memory.read m a = Memory.blank w := by
  induction m with
  | nil => rfl
  | cons c rest ih =>
    obtain ⟨k, v⟩ := c
    simp only [List.all_cons, Bool.and_eq_true, decide_eq_true_eq] at h
    simp only [Memory.read]
    rw [if_neg (by omega)]
    exact ih h.2

/-- A listed index reads as an unlisted entry once it is written with the blank value. -/
theorem Memory.read_entry {m : List (Nat × BitVec w)} {a b : Nat} {v : BitVec w}
    (h : Memory.read m a = Memory.blank w) :
    Memory.read (Memory.entry a v m) b = if b = a then v else Memory.read m b := by
  simp only [Memory.entry]
  split
  · rename_i hv
    split
    · rename_i hb; rw [hb, h, hv]
    · rfl
  · simp only [Memory.read]
    by_cases hb : b = a
    · simp [hb]
    · rw [if_neg (Ne.symm hb), if_neg hb]

/-- Read after write: the value written at its index, the old value elsewhere. -/
theorem Memory.read_write {m : List (Nat × BitVec w)} (hm : Memory.wf m = true) (a b : Nat) (v : BitVec w) :
    Memory.read (Memory.write m a v) b = if b = a then v else Memory.read m b := by
  induction m with
  | nil => exact Memory.read_entry rfl
  | cons c rest ih =>
    obtain ⟨k, u⟩ := c
    simp only [Memory.wf, Bool.and_eq_true, decide_eq_true_eq] at hm
    simp only [Memory.write]
    split
    · rename_i hlt
      apply Memory.read_entry
      apply Memory.read_of_all_lt
      simp only [List.all_cons, Bool.and_eq_true, decide_eq_true_eq]
      refine ⟨hlt, ?_⟩
      have := hm.1.2
      simp only [List.all_eq_true, decide_eq_true_eq] at this ⊢
      intro c hc
      have := this c hc
      omega
    · split
      · rename_i _ he
        subst he
        rw [Memory.read_entry (Memory.read_of_all_lt hm.1.2)]
        simp only [Memory.read]
        by_cases hb : b = a
        · simp [hb]
        · rw [if_neg hb, if_neg hb, if_neg (Ne.symm hb)]
      · rename_i hlt hne
        simp only [Memory.read]
        by_cases hk : k = b
        · rw [if_pos hk, if_pos hk, if_neg (by omega)]
        · rw [if_neg hk, if_neg hk]
          exact ih hm.2

/-- Every entry after a write is the one written or was there before. -/
theorem Memory.mem_write {m : List (Nat × BitVec w)} {a : Nat} {v : BitVec w} {c : Nat × BitVec w}
    (h : c ∈ Memory.write m a v) : c = (a, v) ∨ c ∈ m := by
  induction m with
  | nil => simp only [Memory.write, Memory.entry] at h; split at h <;> simp_all
  | cons d rest ih =>
    obtain ⟨j, u⟩ := d
    simp only [Memory.write, Memory.entry] at h
    repeat' split at h
    all_goals simp only [List.mem_cons] at h ⊢
    all_goals have := ih
    all_goals tauto

/-- What holds of the entry written and of every entry before holds of every entry after. -/
theorem Memory.all_write {m : List (Nat × BitVec w)} {a : Nat} {v : BitVec w} {p : Nat × BitVec w → Bool}
    (h : m.all p = true) (ha : p (a, v) = true) : (Memory.write m a v).all p = true := by
  rw [List.all_eq_true] at h ⊢
  intro c hc
  rcases Memory.mem_write hc with rfl | hc
  · exact ha
  · exact h c hc

/-- A write keeps the canonical form. -/
theorem Memory.wf_write {m : List (Nat × BitVec w)} (hm : Memory.wf m = true) (a : Nat) (v : BitVec w) :
    Memory.wf (Memory.write m a v) = true := by
  induction m with
  | nil => simp only [Memory.write, Memory.entry]; split <;> simp_all [Memory.wf]
  | cons c rest ih =>
    obtain ⟨k, u⟩ := c
    have hm' := hm
    simp only [Memory.wf, Bool.and_eq_true, decide_eq_true_eq] at hm
    have hall : ∀ j, j ≤ k → rest.all (fun c => j < c.1) = true := by
      intro j hj
      have := hm.1.2
      simp only [List.all_eq_true, decide_eq_true_eq] at this ⊢
      intro c hc
      have := this c hc
      omega
    simp only [Memory.write]
    split
    · rename_i hlt
      simp only [Memory.entry]
      split
      · exact hm'
      · rename_i hv
        simp only [Memory.wf, List.all_cons, Bool.and_eq_true, decide_eq_true_eq]
        exact ⟨⟨hv, hlt, hall a (by omega)⟩, hm⟩
    · split
      · rename_i _ he
        subst he
        simp only [Memory.entry]
        split
        · exact hm.2
        · rename_i hv
          simp only [Memory.wf, Bool.and_eq_true, decide_eq_true_eq]
          exact ⟨⟨hv, hm.1.2⟩, hm.2⟩
      · rename_i hlt hne
        simp only [Memory.wf, Bool.and_eq_true, decide_eq_true_eq]
        exact ⟨⟨hm.1.1, Memory.all_write hm.1.2 (by simp only [decide_eq_true_eq]; omega)⟩, ih hm.2⟩

/-- A write below `n` keeps every listed index below `n`. -/
theorem Memory.below_write {m : List (Nat × BitVec w)} {n a : Nat} (hm : Memory.below n m = true) (ha : a < n)
    (v : BitVec w) : Memory.below n (Memory.write m a v) = true :=
  Memory.all_write hm (by simpa using ha)

/-- An index no entry reaches reads as an unlisted entry. -/
theorem Memory.read_of_below {m : List (Nat × BitVec w)} {n a : Nat} (hm : Memory.below n m = true)
    (ha : n ≤ a) : Memory.read m a = Memory.blank w := by
  induction m with
  | nil => rfl
  | cons c rest ih =>
    obtain ⟨k, v⟩ := c
    simp only [Memory.below, List.all_cons, Bool.and_eq_true, decide_eq_true_eq] at hm
    simp only [Memory.read]
    rw [if_neg (by omega)]
    exact ih hm.2

/-- A list of writes keeps the canonical form; an index none of them names is unchanged; and if no two name
the same index, each index written reads back its value. -/
theorem Memory.foldl_write {l : List (Nat × BitVec w)} {m : List (Nat × BitVec w)} (hm : Memory.wf m = true) :
    Memory.wf (l.foldl (fun m c => Memory.write m c.1 c.2) m) = true ∧
    (∀ a, (∀ c ∈ l, c.1 ≠ a) →
      Memory.read (l.foldl (fun m c => Memory.write m c.1 c.2) m) a = Memory.read m a) ∧
    ((l.map (·.1)).Nodup →
      ∀ c ∈ l, Memory.read (l.foldl (fun m c => Memory.write m c.1 c.2) m) c.1 = c.2) := by
  induction l generalizing m with
  | nil => simp [hm]
  | cons c rest ih =>
    obtain ⟨i1, i2, i3⟩ := ih (Memory.wf_write hm c.1 c.2)
    refine ⟨i1, ?_, ?_⟩
    · intro a ha
      rw [List.foldl_cons, i2 a fun d hd => ha d (List.mem_cons_of_mem _ hd), Memory.read_write hm,
        if_neg (Ne.symm (ha c List.mem_cons_self))]
    · intro hn d hd
      rw [List.map_cons, List.nodup_cons] at hn
      rcases List.mem_cons.mp hd with rfl | hd
      · rw [List.foldl_cons, i2, Memory.read_write hm, if_pos rfl]
        intro e he hh
        exact hn.1 (hh ▸ List.mem_map_of_mem he)
      · exact i3 hn.2 d hd

/-- The power-on memories have the canonical form. -/
theorem Memory.wf_reset : Memory.wf State.reset.oam = true ∧ Memory.wf State.reset.frameBuffer = true := by
  exact ⟨rfl, rfl⟩

end Sys2Proof.Machine
end

