-- ==== Sys2Proof/Laws/State.lean ====
section
/-! SUPPORT. What each named update of the state does to each field, so that no proof unfolds a record
update. -/

namespace Sys2Proof.Machine

variable (s : State)

/-! ### setValue -/

@[simp] theorem State.setValue_regs (r : RegName) (v : Int) : (s.setValue r v).regs = s.regs.put r (BitVec.ofNat 8 (BitOps.toUnsigned8 v)) := rfl
@[simp] theorem State.setValue_cycle (r : RegName) (v : Int) : (s.setValue r v).cycle = s.cycle := rfl
@[simp] theorem State.setValue_scanline (r : RegName) (v : Int) : (s.setValue r v).scanline = s.scanline := rfl
@[simp] theorem State.setValue_frame (r : RegName) (v : Int) : (s.setValue r v).frame = s.frame := rfl
@[simp] theorem State.setValue_latch (r : RegName) (v : Int) : (s.setValue r v).latch = s.latch := rfl
@[simp] theorem State.setValue_scrollX (r : RegName) (v : Int) : (s.setValue r v).scrollX = s.scrollX := rfl
@[simp] theorem State.setValue_scrollY (r : RegName) (v : Int) : (s.setValue r v).scrollY = s.scrollY := rfl
@[simp] theorem State.setValue_readBuffer (r : RegName) (v : Int) : (s.setValue r v).readBuffer = s.readBuffer := rfl
@[simp] theorem State.setValue_oam (r : RegName) (v : Int) : (s.setValue r v).oam = s.oam := rfl
@[simp] theorem State.setValue_frameBuffer (r : RegName) (v : Int) : (s.setValue r v).frameBuffer = s.frameBuffer := rfl
@[simp] theorem State.setValue_isActive (r : RegName) (v : Int) : (s.setValue r v).isActive = s.isActive := rfl
@[simp] theorem State.setValue_startPending (r : RegName) (v : Int) : (s.setValue r v).startPending = s.startPending := rfl
@[simp] theorem State.setValue_dividerPeriod (r : RegName) (v : Int) : (s.setValue r v).dividerPeriod = s.dividerPeriod := rfl
@[simp] theorem State.setValue_dividerCount (r : RegName) (v : Int) : (s.setValue r v).dividerCount = s.dividerCount := rfl
@[simp] theorem State.setValue_cursorByte (r : RegName) (v : Int) : (s.setValue r v).cursorByte = s.cursorByte := rfl
@[simp] theorem State.setValue_cursorBit (r : RegName) (v : Int) : (s.setValue r v).cursorBit = s.cursorBit := rfl
@[simp] theorem State.setValue_sampleAddress (r : RegName) (v : Int) : (s.setValue r v).sampleAddress = s.sampleAddress := rfl
@[simp] theorem State.setValue_sampleLength (r : RegName) (v : Int) : (s.setValue r v).sampleLength = s.sampleLength := rfl
@[simp] theorem State.setValue_buffer (r : RegName) (v : Int) : (s.setValue r v).buffer = s.buffer := rfl
@[simp] theorem State.setValue_output (r : RegName) (v : Int) : (s.setValue r v).output = s.output := rfl
@[simp] theorem State.setValue_history (r : RegName) (v : Int) : (s.setValue r v).history = s.history := rfl
@[simp] theorem State.setValue_fault (r : RegName) (v : Int) : (s.setValue r v).fault = s.fault := rfl
@[simp] theorem State.setValue_result (r : RegName) (v : Int) : (s.setValue r v).result = s.result := rfl
@[simp] theorem State.setValue_commands (r : RegName) (v : Int) : (s.setValue r v).commands = s.commands := rfl
@[simp] theorem State.setValue_answers (r : RegName) (v : Int) : (s.setValue r v).answers = s.answers := rfl
@[simp] theorem State.setValue_draws (r : RegName) (v : Int) : (s.setValue r v).draws = s.draws := rfl
@[simp] theorem State.setValue_params (r : RegName) (v : Int) : (s.setValue r v).params = s.params := rfl

/-! ### respond -/

@[simp] theorem State.respond_regs (r : Result) : (s.respond r).regs = s.regs := rfl
@[simp] theorem State.respond_cycle (r : Result) : (s.respond r).cycle = s.cycle := rfl
@[simp] theorem State.respond_scanline (r : Result) : (s.respond r).scanline = s.scanline := rfl
@[simp] theorem State.respond_frame (r : Result) : (s.respond r).frame = s.frame := rfl
@[simp] theorem State.respond_latch (r : Result) : (s.respond r).latch = s.latch := rfl
@[simp] theorem State.respond_scrollX (r : Result) : (s.respond r).scrollX = s.scrollX := rfl
@[simp] theorem State.respond_scrollY (r : Result) : (s.respond r).scrollY = s.scrollY := rfl
@[simp] theorem State.respond_readBuffer (r : Result) : (s.respond r).readBuffer = s.readBuffer := rfl
@[simp] theorem State.respond_oam (r : Result) : (s.respond r).oam = s.oam := rfl
@[simp] theorem State.respond_frameBuffer (r : Result) : (s.respond r).frameBuffer = s.frameBuffer := rfl
@[simp] theorem State.respond_isActive (r : Result) : (s.respond r).isActive = s.isActive := rfl
@[simp] theorem State.respond_startPending (r : Result) : (s.respond r).startPending = s.startPending := rfl
@[simp] theorem State.respond_dividerPeriod (r : Result) : (s.respond r).dividerPeriod = s.dividerPeriod := rfl
@[simp] theorem State.respond_dividerCount (r : Result) : (s.respond r).dividerCount = s.dividerCount := rfl
@[simp] theorem State.respond_cursorByte (r : Result) : (s.respond r).cursorByte = s.cursorByte := rfl
@[simp] theorem State.respond_cursorBit (r : Result) : (s.respond r).cursorBit = s.cursorBit := rfl
@[simp] theorem State.respond_sampleAddress (r : Result) : (s.respond r).sampleAddress = s.sampleAddress := rfl
@[simp] theorem State.respond_sampleLength (r : Result) : (s.respond r).sampleLength = s.sampleLength := rfl
@[simp] theorem State.respond_buffer (r : Result) : (s.respond r).buffer = s.buffer := rfl
@[simp] theorem State.respond_output (r : Result) : (s.respond r).output = s.output := rfl
@[simp] theorem State.respond_history (r : Result) : (s.respond r).history = s.history := rfl
@[simp] theorem State.respond_fault (r : Result) : (s.respond r).fault = s.fault := rfl
@[simp] theorem State.respond_result (r : Result) : (s.respond r).result = r := rfl
@[simp] theorem State.respond_commands (r : Result) : (s.respond r).commands = s.commands := rfl
@[simp] theorem State.respond_answers (r : Result) : (s.respond r).answers = s.answers := rfl
@[simp] theorem State.respond_draws (r : Result) : (s.respond r).draws = s.draws := rfl
@[simp] theorem State.respond_params (r : Result) : (s.respond r).params = s.params := rfl

/-! ### emit -/

@[simp] theorem State.emit_regs (e : Event) : (s.emit e).regs = s.regs := rfl
@[simp] theorem State.emit_cycle (e : Event) : (s.emit e).cycle = s.cycle := rfl
@[simp] theorem State.emit_scanline (e : Event) : (s.emit e).scanline = s.scanline := rfl
@[simp] theorem State.emit_frame (e : Event) : (s.emit e).frame = s.frame := rfl
@[simp] theorem State.emit_latch (e : Event) : (s.emit e).latch = s.latch := rfl
@[simp] theorem State.emit_scrollX (e : Event) : (s.emit e).scrollX = s.scrollX := rfl
@[simp] theorem State.emit_scrollY (e : Event) : (s.emit e).scrollY = s.scrollY := rfl
@[simp] theorem State.emit_readBuffer (e : Event) : (s.emit e).readBuffer = s.readBuffer := rfl
@[simp] theorem State.emit_oam (e : Event) : (s.emit e).oam = s.oam := rfl
@[simp] theorem State.emit_frameBuffer (e : Event) : (s.emit e).frameBuffer = s.frameBuffer := rfl
@[simp] theorem State.emit_isActive (e : Event) : (s.emit e).isActive = s.isActive := rfl
@[simp] theorem State.emit_startPending (e : Event) : (s.emit e).startPending = s.startPending := rfl
@[simp] theorem State.emit_dividerPeriod (e : Event) : (s.emit e).dividerPeriod = s.dividerPeriod := rfl
@[simp] theorem State.emit_dividerCount (e : Event) : (s.emit e).dividerCount = s.dividerCount := rfl
@[simp] theorem State.emit_cursorByte (e : Event) : (s.emit e).cursorByte = s.cursorByte := rfl
@[simp] theorem State.emit_cursorBit (e : Event) : (s.emit e).cursorBit = s.cursorBit := rfl
@[simp] theorem State.emit_sampleAddress (e : Event) : (s.emit e).sampleAddress = s.sampleAddress := rfl
@[simp] theorem State.emit_sampleLength (e : Event) : (s.emit e).sampleLength = s.sampleLength := rfl
@[simp] theorem State.emit_buffer (e : Event) : (s.emit e).buffer = s.buffer := rfl
@[simp] theorem State.emit_output (e : Event) : (s.emit e).output = s.output := rfl
@[simp] theorem State.emit_history (e : Event) : (s.emit e).history = s.history ++ [e] := rfl
@[simp] theorem State.emit_fault (e : Event) : (s.emit e).fault = s.fault := rfl
@[simp] theorem State.emit_result (e : Event) : (s.emit e).result = s.result := rfl
@[simp] theorem State.emit_commands (e : Event) : (s.emit e).commands = s.commands := rfl
@[simp] theorem State.emit_answers (e : Event) : (s.emit e).answers = s.answers := rfl
@[simp] theorem State.emit_draws (e : Event) : (s.emit e).draws = s.draws := rfl
@[simp] theorem State.emit_params (e : Event) : (s.emit e).params = s.params := rfl

/-! ### raise -/

@[simp] theorem State.raise_regs (f : FaultRecord) : (s.raise f).regs = s.regs := rfl
@[simp] theorem State.raise_cycle (f : FaultRecord) : (s.raise f).cycle = s.cycle := rfl
@[simp] theorem State.raise_scanline (f : FaultRecord) : (s.raise f).scanline = s.scanline := rfl
@[simp] theorem State.raise_frame (f : FaultRecord) : (s.raise f).frame = s.frame := rfl
@[simp] theorem State.raise_latch (f : FaultRecord) : (s.raise f).latch = s.latch := rfl
@[simp] theorem State.raise_scrollX (f : FaultRecord) : (s.raise f).scrollX = s.scrollX := rfl
@[simp] theorem State.raise_scrollY (f : FaultRecord) : (s.raise f).scrollY = s.scrollY := rfl
@[simp] theorem State.raise_readBuffer (f : FaultRecord) : (s.raise f).readBuffer = s.readBuffer := rfl
@[simp] theorem State.raise_oam (f : FaultRecord) : (s.raise f).oam = s.oam := rfl
@[simp] theorem State.raise_frameBuffer (f : FaultRecord) : (s.raise f).frameBuffer = s.frameBuffer := rfl
@[simp] theorem State.raise_isActive (f : FaultRecord) : (s.raise f).isActive = s.isActive := rfl
@[simp] theorem State.raise_startPending (f : FaultRecord) : (s.raise f).startPending = s.startPending := rfl
@[simp] theorem State.raise_dividerPeriod (f : FaultRecord) : (s.raise f).dividerPeriod = s.dividerPeriod := rfl
@[simp] theorem State.raise_dividerCount (f : FaultRecord) : (s.raise f).dividerCount = s.dividerCount := rfl
@[simp] theorem State.raise_cursorByte (f : FaultRecord) : (s.raise f).cursorByte = s.cursorByte := rfl
@[simp] theorem State.raise_cursorBit (f : FaultRecord) : (s.raise f).cursorBit = s.cursorBit := rfl
@[simp] theorem State.raise_sampleAddress (f : FaultRecord) : (s.raise f).sampleAddress = s.sampleAddress := rfl
@[simp] theorem State.raise_sampleLength (f : FaultRecord) : (s.raise f).sampleLength = s.sampleLength := rfl
@[simp] theorem State.raise_buffer (f : FaultRecord) : (s.raise f).buffer = s.buffer := rfl
@[simp] theorem State.raise_output (f : FaultRecord) : (s.raise f).output = s.output := rfl
@[simp] theorem State.raise_history (f : FaultRecord) : (s.raise f).history = s.history := rfl
@[simp] theorem State.raise_fault (f : FaultRecord) : (s.raise f).fault = some f := rfl
@[simp] theorem State.raise_result (f : FaultRecord) : (s.raise f).result = s.result := rfl
@[simp] theorem State.raise_commands (f : FaultRecord) : (s.raise f).commands = s.commands := rfl
@[simp] theorem State.raise_answers (f : FaultRecord) : (s.raise f).answers = s.answers := rfl
@[simp] theorem State.raise_draws (f : FaultRecord) : (s.raise f).draws = s.draws := rfl
@[simp] theorem State.raise_params (f : FaultRecord) : (s.raise f).params = s.params := rfl

/-! ### oamWrite -/

@[simp] theorem State.oamWrite_regs (i : Nat) (v : Byte) : (s.oamWrite i v).regs = s.regs := rfl
@[simp] theorem State.oamWrite_cycle (i : Nat) (v : Byte) : (s.oamWrite i v).cycle = s.cycle := rfl
@[simp] theorem State.oamWrite_scanline (i : Nat) (v : Byte) : (s.oamWrite i v).scanline = s.scanline := rfl
@[simp] theorem State.oamWrite_frame (i : Nat) (v : Byte) : (s.oamWrite i v).frame = s.frame := rfl
@[simp] theorem State.oamWrite_latch (i : Nat) (v : Byte) : (s.oamWrite i v).latch = s.latch := rfl
@[simp] theorem State.oamWrite_scrollX (i : Nat) (v : Byte) : (s.oamWrite i v).scrollX = s.scrollX := rfl
@[simp] theorem State.oamWrite_scrollY (i : Nat) (v : Byte) : (s.oamWrite i v).scrollY = s.scrollY := rfl
@[simp] theorem State.oamWrite_readBuffer (i : Nat) (v : Byte) : (s.oamWrite i v).readBuffer = s.readBuffer := rfl
@[simp] theorem State.oamWrite_oam (i : Nat) (v : Byte) : (s.oamWrite i v).oam = Memory.write s.oam i v := rfl
@[simp] theorem State.oamWrite_frameBuffer (i : Nat) (v : Byte) : (s.oamWrite i v).frameBuffer = s.frameBuffer := rfl
@[simp] theorem State.oamWrite_isActive (i : Nat) (v : Byte) : (s.oamWrite i v).isActive = s.isActive := rfl
@[simp] theorem State.oamWrite_startPending (i : Nat) (v : Byte) : (s.oamWrite i v).startPending = s.startPending := rfl
@[simp] theorem State.oamWrite_dividerPeriod (i : Nat) (v : Byte) : (s.oamWrite i v).dividerPeriod = s.dividerPeriod := rfl
@[simp] theorem State.oamWrite_dividerCount (i : Nat) (v : Byte) : (s.oamWrite i v).dividerCount = s.dividerCount := rfl
@[simp] theorem State.oamWrite_cursorByte (i : Nat) (v : Byte) : (s.oamWrite i v).cursorByte = s.cursorByte := rfl
@[simp] theorem State.oamWrite_cursorBit (i : Nat) (v : Byte) : (s.oamWrite i v).cursorBit = s.cursorBit := rfl
@[simp] theorem State.oamWrite_sampleAddress (i : Nat) (v : Byte) : (s.oamWrite i v).sampleAddress = s.sampleAddress := rfl
@[simp] theorem State.oamWrite_sampleLength (i : Nat) (v : Byte) : (s.oamWrite i v).sampleLength = s.sampleLength := rfl
@[simp] theorem State.oamWrite_buffer (i : Nat) (v : Byte) : (s.oamWrite i v).buffer = s.buffer := rfl
@[simp] theorem State.oamWrite_output (i : Nat) (v : Byte) : (s.oamWrite i v).output = s.output := rfl
@[simp] theorem State.oamWrite_history (i : Nat) (v : Byte) : (s.oamWrite i v).history = s.history := rfl
@[simp] theorem State.oamWrite_fault (i : Nat) (v : Byte) : (s.oamWrite i v).fault = s.fault := rfl
@[simp] theorem State.oamWrite_result (i : Nat) (v : Byte) : (s.oamWrite i v).result = s.result := rfl
@[simp] theorem State.oamWrite_commands (i : Nat) (v : Byte) : (s.oamWrite i v).commands = s.commands := rfl
@[simp] theorem State.oamWrite_answers (i : Nat) (v : Byte) : (s.oamWrite i v).answers = s.answers := rfl
@[simp] theorem State.oamWrite_draws (i : Nat) (v : Byte) : (s.oamWrite i v).draws = s.draws := rfl
@[simp] theorem State.oamWrite_params (i : Nat) (v : Byte) : (s.oamWrite i v).params = s.params := rfl

/-! ### pixelWrite -/

@[simp] theorem State.pixelWrite_regs (i : Nat) (c : Pixel) : (s.pixelWrite i c).regs = s.regs := rfl
@[simp] theorem State.pixelWrite_cycle (i : Nat) (c : Pixel) : (s.pixelWrite i c).cycle = s.cycle := rfl
@[simp] theorem State.pixelWrite_scanline (i : Nat) (c : Pixel) : (s.pixelWrite i c).scanline = s.scanline := rfl
@[simp] theorem State.pixelWrite_frame (i : Nat) (c : Pixel) : (s.pixelWrite i c).frame = s.frame := rfl
@[simp] theorem State.pixelWrite_latch (i : Nat) (c : Pixel) : (s.pixelWrite i c).latch = s.latch := rfl
@[simp] theorem State.pixelWrite_scrollX (i : Nat) (c : Pixel) : (s.pixelWrite i c).scrollX = s.scrollX := rfl
@[simp] theorem State.pixelWrite_scrollY (i : Nat) (c : Pixel) : (s.pixelWrite i c).scrollY = s.scrollY := rfl
@[simp] theorem State.pixelWrite_readBuffer (i : Nat) (c : Pixel) : (s.pixelWrite i c).readBuffer = s.readBuffer := rfl
@[simp] theorem State.pixelWrite_oam (i : Nat) (c : Pixel) : (s.pixelWrite i c).oam = s.oam := rfl
@[simp] theorem State.pixelWrite_frameBuffer (i : Nat) (c : Pixel) : (s.pixelWrite i c).frameBuffer = Memory.write s.frameBuffer i c := rfl
@[simp] theorem State.pixelWrite_isActive (i : Nat) (c : Pixel) : (s.pixelWrite i c).isActive = s.isActive := rfl
@[simp] theorem State.pixelWrite_startPending (i : Nat) (c : Pixel) : (s.pixelWrite i c).startPending = s.startPending := rfl
@[simp] theorem State.pixelWrite_dividerPeriod (i : Nat) (c : Pixel) : (s.pixelWrite i c).dividerPeriod = s.dividerPeriod := rfl
@[simp] theorem State.pixelWrite_dividerCount (i : Nat) (c : Pixel) : (s.pixelWrite i c).dividerCount = s.dividerCount := rfl
@[simp] theorem State.pixelWrite_cursorByte (i : Nat) (c : Pixel) : (s.pixelWrite i c).cursorByte = s.cursorByte := rfl
@[simp] theorem State.pixelWrite_cursorBit (i : Nat) (c : Pixel) : (s.pixelWrite i c).cursorBit = s.cursorBit := rfl
@[simp] theorem State.pixelWrite_sampleAddress (i : Nat) (c : Pixel) : (s.pixelWrite i c).sampleAddress = s.sampleAddress := rfl
@[simp] theorem State.pixelWrite_sampleLength (i : Nat) (c : Pixel) : (s.pixelWrite i c).sampleLength = s.sampleLength := rfl
@[simp] theorem State.pixelWrite_buffer (i : Nat) (c : Pixel) : (s.pixelWrite i c).buffer = s.buffer := rfl
@[simp] theorem State.pixelWrite_output (i : Nat) (c : Pixel) : (s.pixelWrite i c).output = s.output := rfl
@[simp] theorem State.pixelWrite_history (i : Nat) (c : Pixel) : (s.pixelWrite i c).history = s.history := rfl
@[simp] theorem State.pixelWrite_fault (i : Nat) (c : Pixel) : (s.pixelWrite i c).fault = s.fault := rfl
@[simp] theorem State.pixelWrite_result (i : Nat) (c : Pixel) : (s.pixelWrite i c).result = s.result := rfl
@[simp] theorem State.pixelWrite_commands (i : Nat) (c : Pixel) : (s.pixelWrite i c).commands = s.commands := rfl
@[simp] theorem State.pixelWrite_answers (i : Nat) (c : Pixel) : (s.pixelWrite i c).answers = s.answers := rfl
@[simp] theorem State.pixelWrite_draws (i : Nat) (c : Pixel) : (s.pixelWrite i c).draws = s.draws := rfl
@[simp] theorem State.pixelWrite_params (i : Nat) (c : Pixel) : (s.pixelWrite i c).params = s.params := rfl

/-! ### flipToggle -/

@[simp] theorem State.flipToggle_regs : (s.flipToggle).regs = s.regs := rfl
@[simp] theorem State.flipToggle_cycle : (s.flipToggle).cycle = s.cycle := rfl
@[simp] theorem State.flipToggle_scanline : (s.flipToggle).scanline = s.scanline := rfl
@[simp] theorem State.flipToggle_frame : (s.flipToggle).frame = s.frame := rfl
@[simp] theorem State.flipToggle_latch : (s.flipToggle).latch = ⟨s.latch.address, !s.latch.pendingHighByte⟩ := rfl
@[simp] theorem State.flipToggle_scrollX : (s.flipToggle).scrollX = s.scrollX := rfl
@[simp] theorem State.flipToggle_scrollY : (s.flipToggle).scrollY = s.scrollY := rfl
@[simp] theorem State.flipToggle_readBuffer : (s.flipToggle).readBuffer = s.readBuffer := rfl
@[simp] theorem State.flipToggle_oam : (s.flipToggle).oam = s.oam := rfl
@[simp] theorem State.flipToggle_frameBuffer : (s.flipToggle).frameBuffer = s.frameBuffer := rfl
@[simp] theorem State.flipToggle_isActive : (s.flipToggle).isActive = s.isActive := rfl
@[simp] theorem State.flipToggle_startPending : (s.flipToggle).startPending = s.startPending := rfl
@[simp] theorem State.flipToggle_dividerPeriod : (s.flipToggle).dividerPeriod = s.dividerPeriod := rfl
@[simp] theorem State.flipToggle_dividerCount : (s.flipToggle).dividerCount = s.dividerCount := rfl
@[simp] theorem State.flipToggle_cursorByte : (s.flipToggle).cursorByte = s.cursorByte := rfl
@[simp] theorem State.flipToggle_cursorBit : (s.flipToggle).cursorBit = s.cursorBit := rfl
@[simp] theorem State.flipToggle_sampleAddress : (s.flipToggle).sampleAddress = s.sampleAddress := rfl
@[simp] theorem State.flipToggle_sampleLength : (s.flipToggle).sampleLength = s.sampleLength := rfl
@[simp] theorem State.flipToggle_buffer : (s.flipToggle).buffer = s.buffer := rfl
@[simp] theorem State.flipToggle_output : (s.flipToggle).output = s.output := rfl
@[simp] theorem State.flipToggle_history : (s.flipToggle).history = s.history := rfl
@[simp] theorem State.flipToggle_fault : (s.flipToggle).fault = s.fault := rfl
@[simp] theorem State.flipToggle_result : (s.flipToggle).result = s.result := rfl
@[simp] theorem State.flipToggle_commands : (s.flipToggle).commands = s.commands := rfl
@[simp] theorem State.flipToggle_answers : (s.flipToggle).answers = s.answers := rfl
@[simp] theorem State.flipToggle_draws : (s.flipToggle).draws = s.draws := rfl
@[simp] theorem State.flipToggle_params : (s.flipToggle).params = s.params := rfl

/-! ### advanceLatch -/

@[simp] theorem State.advanceLatch_regs : (s.advanceLatch).regs = s.regs := rfl
@[simp] theorem State.advanceLatch_cycle : (s.advanceLatch).cycle = s.cycle := rfl
@[simp] theorem State.advanceLatch_scanline : (s.advanceLatch).scanline = s.scanline := rfl
@[simp] theorem State.advanceLatch_frame : (s.advanceLatch).frame = s.frame := rfl
@[simp] theorem State.advanceLatch_latch : (s.advanceLatch).latch = ⟨BitVec.ofNat 16 ((s.latch.address.toNat + s.inc) % 65536), s.latch.pendingHighByte⟩ := rfl
@[simp] theorem State.advanceLatch_scrollX : (s.advanceLatch).scrollX = s.scrollX := rfl
@[simp] theorem State.advanceLatch_scrollY : (s.advanceLatch).scrollY = s.scrollY := rfl
@[simp] theorem State.advanceLatch_readBuffer : (s.advanceLatch).readBuffer = s.readBuffer := rfl
@[simp] theorem State.advanceLatch_oam : (s.advanceLatch).oam = s.oam := rfl
@[simp] theorem State.advanceLatch_frameBuffer : (s.advanceLatch).frameBuffer = s.frameBuffer := rfl
@[simp] theorem State.advanceLatch_isActive : (s.advanceLatch).isActive = s.isActive := rfl
@[simp] theorem State.advanceLatch_startPending : (s.advanceLatch).startPending = s.startPending := rfl
@[simp] theorem State.advanceLatch_dividerPeriod : (s.advanceLatch).dividerPeriod = s.dividerPeriod := rfl
@[simp] theorem State.advanceLatch_dividerCount : (s.advanceLatch).dividerCount = s.dividerCount := rfl
@[simp] theorem State.advanceLatch_cursorByte : (s.advanceLatch).cursorByte = s.cursorByte := rfl
@[simp] theorem State.advanceLatch_cursorBit : (s.advanceLatch).cursorBit = s.cursorBit := rfl
@[simp] theorem State.advanceLatch_sampleAddress : (s.advanceLatch).sampleAddress = s.sampleAddress := rfl
@[simp] theorem State.advanceLatch_sampleLength : (s.advanceLatch).sampleLength = s.sampleLength := rfl
@[simp] theorem State.advanceLatch_buffer : (s.advanceLatch).buffer = s.buffer := rfl
@[simp] theorem State.advanceLatch_output : (s.advanceLatch).output = s.output := rfl
@[simp] theorem State.advanceLatch_history : (s.advanceLatch).history = s.history := rfl
@[simp] theorem State.advanceLatch_fault : (s.advanceLatch).fault = s.fault := rfl
@[simp] theorem State.advanceLatch_result : (s.advanceLatch).result = s.result := rfl
@[simp] theorem State.advanceLatch_commands : (s.advanceLatch).commands = s.commands := rfl
@[simp] theorem State.advanceLatch_answers : (s.advanceLatch).answers = s.answers := rfl
@[simp] theorem State.advanceLatch_draws : (s.advanceLatch).draws = s.draws := rfl
@[simp] theorem State.advanceLatch_params : (s.advanceLatch).params = s.params := rfl

/-! ### issue -/

@[simp] theorem State.issue_regs (w : Command) : (s.issue w).regs = s.regs := rfl
@[simp] theorem State.issue_cycle (w : Command) : (s.issue w).cycle = s.cycle := rfl
@[simp] theorem State.issue_scanline (w : Command) : (s.issue w).scanline = s.scanline := rfl
@[simp] theorem State.issue_frame (w : Command) : (s.issue w).frame = s.frame := rfl
@[simp] theorem State.issue_latch (w : Command) : (s.issue w).latch = s.latch := rfl
@[simp] theorem State.issue_scrollX (w : Command) : (s.issue w).scrollX = s.scrollX := rfl
@[simp] theorem State.issue_scrollY (w : Command) : (s.issue w).scrollY = s.scrollY := rfl
@[simp] theorem State.issue_readBuffer (w : Command) : (s.issue w).readBuffer = s.readBuffer := rfl
@[simp] theorem State.issue_oam (w : Command) : (s.issue w).oam = s.oam := rfl
@[simp] theorem State.issue_frameBuffer (w : Command) : (s.issue w).frameBuffer = s.frameBuffer := rfl
@[simp] theorem State.issue_isActive (w : Command) : (s.issue w).isActive = s.isActive := rfl
@[simp] theorem State.issue_startPending (w : Command) : (s.issue w).startPending = s.startPending := rfl
@[simp] theorem State.issue_dividerPeriod (w : Command) : (s.issue w).dividerPeriod = s.dividerPeriod := rfl
@[simp] theorem State.issue_dividerCount (w : Command) : (s.issue w).dividerCount = s.dividerCount := rfl
@[simp] theorem State.issue_cursorByte (w : Command) : (s.issue w).cursorByte = s.cursorByte := rfl
@[simp] theorem State.issue_cursorBit (w : Command) : (s.issue w).cursorBit = s.cursorBit := rfl
@[simp] theorem State.issue_sampleAddress (w : Command) : (s.issue w).sampleAddress = s.sampleAddress := rfl
@[simp] theorem State.issue_sampleLength (w : Command) : (s.issue w).sampleLength = s.sampleLength := rfl
@[simp] theorem State.issue_buffer (w : Command) : (s.issue w).buffer = s.buffer := rfl
@[simp] theorem State.issue_output (w : Command) : (s.issue w).output = s.output := rfl
@[simp] theorem State.issue_history (w : Command) : (s.issue w).history = s.history := rfl
@[simp] theorem State.issue_fault (w : Command) : (s.issue w).fault = s.fault := rfl
@[simp] theorem State.issue_result (w : Command) : (s.issue w).result = s.result := rfl
@[simp] theorem State.issue_commands (w : Command) : (s.issue w).commands = w :: s.commands := rfl
@[simp] theorem State.issue_answers (w : Command) : (s.issue w).answers = s.answers := rfl
@[simp] theorem State.issue_draws (w : Command) : (s.issue w).draws = s.draws := rfl
@[simp] theorem State.issue_params (w : Command) : (s.issue w).params = s.params := rfl

/-! ### Registers -/

/-- A register reads back what was put into it, and every other register is unchanged. -/
@[simp] theorem Regs.get_put (g : Regs) (r q : RegName) (v : Byte) :
    (g.put r v).get q = if q = r then v else g.get q := by
  cases r <;> cases q <;> rfl

/-- Every register of the cleared file is 0. -/
@[simp] theorem Regs.get_zero (r : RegName) : Regs.zero.get r = 0x00 := by cases r <;> rfl

/-- Two register files are equal when every register is. -/
theorem Regs.ext_get {g h : Regs} (e : ∀ r, g.get r = h.get r) : g = h := by
  cases g; cases h
  simp only [Regs.mk.injEq]
  exact ⟨e .ppuctrl, e .ppumask, e .ppustatus, e .oamaddr, e .oamdata, e .ppuscroll, e .ppuaddr, e .ppudata,
    e .oamdma, e .dmcCtrl, e .dmcAddr, e .dmcLen⟩

/-- `setValue` changes the stored value of its register only. -/
@[simp] theorem State.setValue_value (r q : RegName) (v : Int) :
    (s.setValue r v).value q = if q = r then BitVec.ofNat 8 (BitOps.toUnsigned8 v) else s.value q := by
  simp [State.value]

end Sys2Proof.Machine
end

