-- ==== Sys2Proof/Laws/Ops.lean ====
section
/-! SUPPORT. For each shared operation, one lemma that says everything it can do. -/

namespace Sys2Proof.Machine

/-! ### Ports -/

/-- Taking an answer moves the answer list, or the draw counter, and nothing else. -/
theorem State.takeAnswer_eq (s : State) :
    s.takeAnswer = { s with answers := s.answers.drop 1, draws := s.draws + (1 - s.answers.length) } := by
  unfold State.takeAnswer
  split <;> simp_all

/-- A port read records its event and takes one answer. -/
theorem State.portRead_eq (s : State) (p : Port) (a : Addr) :
    s.portRead p a =
      { s with
        history := s.history ++ [readEvent p a (s.answer p a)]
        answers := s.answers.drop 1
        draws := s.draws + (1 - s.answers.length) } := by
  simp only [State.portRead, State.takeAnswer_eq, State.emit]

/-- The answer of a port read is one that the collaborators gave. -/
theorem State.answered_one (s t : State) (p : Port) (a : Addr) (ha : t.answers = s.answers.drop 1)
    (hd : t.draws = s.draws + (1 - s.answers.length)) : s.Answered t [s.answer p a] := by
  refine ⟨?_, ha, hd⟩
  unfold State.answer
  cases h : s.answers <;> simp

/-- Answers taken one after the other are answers taken. -/
theorem State.Answered.trans {s t u : State} {vs ws : List Byte} (h : s.Answered t vs) (k : t.Answered u ws) :
    s.Answered u (vs ++ ws) := by
  obtain ⟨h1, h2, h3⟩ := h
  obtain ⟨k1, k2, k3⟩ := k
  refine ⟨?_, ?_, ?_⟩
  · rw [List.take_append, h1, List.length_append, List.take_add, ← h2]
    congr 1
    rw [← k1, h2, List.length_drop]
  · rw [k2, h2, List.drop_drop, List.length_append]
  · rw [k3, h3, h2, List.length_drop, List.length_append]
    omega

/-- No answers taken. -/
theorem State.Answered.refl (s : State) : s.Answered s [] := by
  refine ⟨by simp, by simp, by simp⟩

/-! ### The PPU space -/

/-- `resolve` lands on a port only with an address of that port (R156, R165, R166), and on NONE only
from 0x4000 up. -/
theorem resolve_spec (a : Addr) :
    (a.toNat ≤ 0x1FFF → resolve a = (.map, a)) ∧
    (0x2000 ≤ a.toNat → a.toNat ≤ 0x2FFF → resolve a = (.nt, a)) ∧
    (0x3000 ≤ a.toNat → a.toNat ≤ 0x3EFF → resolve a = (.nt, a - 0x1000)) ∧
    (0x3F00 ≤ a.toNat → a.toNat ≤ 0x3F1F → resolve a = (.pal, a)) ∧
    (0x3F20 ≤ a.toNat → a.toNat ≤ 0x3FFF → resolve a = (.pal, 0x3F00 + (a - 0x3F20) % 0x20)) ∧
    (0x4000 ≤ a.toNat → resolve a = (.none, a)) := by
  have ha := a.isLt
  refine ⟨?_, ?_, ?_, ?_, ?_, ?_⟩ <;> intros <;>
    simp only [resolve, resolveNat, resolveDirect, Prod.mk.injEq] <;>
    (repeat' split) <;> (try omega) <;> (refine ⟨rfl, ?_⟩) <;>
    apply BitVec.eq_of_toNat_eq <;>
    simp only [BitVec.ofNat_eq_ofNat, BitVec.toNat_ofNat, BitVec.toNat_sub, BitVec.toNat_add, BitVec.toNat_umod,
      Nat.reducePow, Nat.reduceMod] <;> omega

/-- The six ranges of the PPU space, as one case split. -/
theorem ppu_ranges (a : Addr) :
    a.toNat ≤ 0x1FFF ∨ (0x2000 ≤ a.toNat ∧ a.toNat ≤ 0x2FFF) ∨ (0x3000 ≤ a.toNat ∧ a.toNat ≤ 0x3EFF) ∨
    (0x3F00 ≤ a.toNat ∧ a.toNat ≤ 0x3F1F) ∨ (0x3F20 ≤ a.toNat ∧ a.toNat ≤ 0x3FFF) ∨ 0x4000 ≤ a.toNat := by
  omega

/-- A PPU-space read below 0x4000 is one port read: its event recorded, one answer taken, and the byte is
the answer (R157). -/
theorem State.ppuRead_mapped (s : State) {a : Addr} (h : a.toNat < 0x4000) :
    s.ppuRead a =
      { s with
        history := s.history ++ readEventsAt a (s.ppuByte a)
        answers := s.answers.drop 1
        draws := s.draws + (1 - s.answers.length) } ∧
    ∃ p b, s.ppuByte a = s.answer p b := by
  obtain ⟨h1, h2, h3, h4, h5, -⟩ := resolve_spec a
  unfold State.ppuRead State.ppuByte readEventsAt
  rcases ppu_ranges a with r | ⟨r, q⟩ | ⟨r, q⟩ | ⟨r, q⟩ | ⟨r, q⟩ | r
  · rw [h1 r, if_pos r]
    exact ⟨State.portRead_eq s _ _, _, _, rfl⟩
  · rw [h2 r q, if_neg (by omega), if_pos q]
    exact ⟨State.portRead_eq s _ _, _, _, rfl⟩
  · rw [h3 r q, if_neg (by omega), if_neg (by omega), if_pos q]
    exact ⟨State.portRead_eq s _ _, _, _, rfl⟩
  · rw [h4 r q, if_neg (by omega), if_neg (by omega), if_neg (by omega), if_pos q]
    exact ⟨State.portRead_eq s _ _, _, _, rfl⟩
  · rw [h5 r q, if_neg (by omega), if_neg (by omega), if_neg (by omega), if_neg (by omega), if_pos q]
    exact ⟨State.portRead_eq s _ _, _, _, rfl⟩
  · omega

/-- A PPU-space read from 0x4000 up touches no port and answers P_UNMAPPED_READ (R157). -/
theorem State.ppuRead_unmapped (s : State) {a : Addr} (h : 0x4000 ≤ a.toNat) :
    s.ppuRead a = s ∧ s.ppuByte a = s.params.unmappedRead ∧ ∀ v, readEventsAt a v = [] := by
  obtain ⟨-, -, -, -, -, h6⟩ := resolve_spec a
  unfold State.ppuRead State.ppuByte readEventsAt
  rw [h6 h]
  refine ⟨rfl, rfl, fun v => ?_⟩
  rw [if_neg (by omega), if_neg (by omega), if_neg (by omega), if_neg (by omega), if_neg (by omega)]

/-- A PPU-space write records the port write of its range, or nothing (R158). -/
theorem State.ppuWrite_eq (s : State) (a : Addr) (v : Byte) :
    s.ppuWrite a v = { s with history := s.history ++ writeEventsAt a v } := by
  obtain ⟨h1, h2, h3, h4, h5, h6⟩ := resolve_spec a
  unfold State.ppuWrite writeEventsAt
  rcases ppu_ranges a with r | ⟨r, q⟩ | ⟨r, q⟩ | ⟨r, q⟩ | ⟨r, q⟩ | r
  · rw [h1 r, if_pos r]; rfl
  · rw [h2 r q, if_neg (by omega), if_pos q]; rfl
  · rw [h3 r q, if_neg (by omega), if_neg (by omega), if_pos q]; rfl
  · rw [h4 r q, if_neg (by omega), if_neg (by omega), if_neg (by omega), if_pos q]; rfl
  · rw [h5 r q, if_neg (by omega), if_neg (by omega), if_neg (by omega), if_neg (by omega), if_pos q]; rfl
  · rw [h6 r, if_neg (by omega), if_neg (by omega), if_neg (by omega), if_neg (by omega), if_neg (by omega)]
    simp

/-- A mirrored palette address lies in the palette range (R156). -/
theorem palMirror_range (a : Addr) :
    0x3F00 ≤ (0x3F00 + (a - 0x3F20) % 0x20 : Addr).toNat ∧ (0x3F00 + (a - 0x3F20) % 0x20 : Addr).toNat ≤ 0x3F1F := by
  have ha := a.isLt
  simp only [BitVec.ofNat_eq_ofNat, BitVec.toNat_ofNat, BitVec.toNat_sub, BitVec.toNat_add, BitVec.toNat_umod,
    Nat.reducePow, Nat.reduceMod]
  omega

/-- The events of PPU-space reads name only addresses of their ports (R165, R166). -/
theorem readEventsAt_wf (a : Addr) (v : Byte) : (readEventsAt a v).all Event.wf = true := by
  have ha := a.isLt
  have hp := palMirror_range a
  unfold readEventsAt
  repeat' split
  all_goals simp only [List.all_cons, List.all_nil, Event.wf, Bool.and_true, Bool.and_eq_true,
    decide_eq_true_eq]
  · assumption
  · omega
  · simp only [BitVec.ofNat_eq_ofNat, BitVec.toNat_ofNat, BitVec.toNat_sub, Nat.reducePow, Nat.reduceMod]
    omega
  · omega
  · exact hp

/-- The events of PPU-space writes name only addresses of their ports (R165, R166). -/
theorem writeEventsAt_wf (a : Addr) (v : Byte) : (writeEventsAt a v).all Event.wf = true := by
  have ha := a.isLt
  have hp := palMirror_range a
  unfold writeEventsAt
  repeat' split
  all_goals simp only [List.all_cons, List.all_nil, Event.wf, Bool.and_true, Bool.and_eq_true,
    decide_eq_true_eq]
  · assumption
  · omega
  · simp only [BitVec.ofNat_eq_ofNat, BitVec.toNat_ofNat, BitVec.toNat_sub, Nat.reducePow, Nat.reduceMod]
    omega
  · omega
  · exact hp

/-! ### Registers and memories -/

/-- `setValue` of a byte puts that byte into the register. -/
@[simp] theorem State.setValue_byte (s : State) (r : RegName) (d : Byte) :
    s.setValue r d.toNat = { s with regs := s.regs.put r d } := by
  simp only [State.setValue, BitOps.store_byte]

/-- The latch advance of R335, as a 16-bit sum. -/
theorem State.advanceLatch_eq (s : State) :
    s.advanceLatch = { s with latch.address := s.latch.address + if s.regs.ppuctrl.getLsbD 2 then 32 else 1 } := by
  simp only [State.advanceLatch, BitOps.latch_sum, State.inc_eq]
  cases s.regs.ppuctrl.getLsbD 2 <;> rfl

/-- An OAM write keeps the canonical form and the size. -/
theorem State.oamWrite_form (s : State) {i : Nat} (v : Byte) (h : Memory.wf s.oam = true)
    (k : Memory.below 256 s.oam = true) (hi : i < 256) :
    Memory.wf (s.oamWrite i v).oam = true ∧ Memory.below 256 (s.oamWrite i v).oam = true :=
  ⟨Memory.wf_write h _ _, Memory.below_write k hi _⟩

/-- A pixel write keeps the canonical form and the size. -/
theorem State.pixelWrite_form (s : State) {i : Nat} (c : Pixel) (h : Memory.wf s.frameBuffer = true)
    (k : Memory.below 61440 s.frameBuffer = true) (hi : i < 61440) :
    Memory.wf (s.pixelWrite i c).frameBuffer = true ∧ Memory.below 61440 (s.pixelWrite i c).frameBuffer = true :=
  ⟨Memory.wf_write h _ _, Memory.below_write k hi _⟩

/-- Both rows of a tile lie in the pattern tables (R260). -/
theorem tile_rows (t : BitVec 1) (n : Byte) (r : BitVec 3) :
    (tileLow t n r).toNat = t.toNat * 4096 + n.toNat * 16 + r.toNat ∧
    (tileHigh t n r).toNat = t.toNat * 4096 + n.toNat * 16 + r.toNat + 8 ∧
    t.toNat * 4096 + n.toNat * 16 + r.toNat + 8 ≤ 0x1FFF := by
  have := t.isLt
  have := n.isLt
  have := r.isLt
  simp only [tileLow, tileHigh, tileBase, BitVec.toNat_ofNat]
  omega

/-- The index of a pixel in range lies in the frame buffer (R270). -/
theorem pixelIndex_lt {x y : Byte} (h : y.toNat < 240) : pixelIndex x y < 61440 := by
  have := x.isLt
  simp only [pixelIndex]
  omega

/-! ### The OAM-DMA copy -/

/-- The copy loop of R329 from iteration `i` on: its `n` reads in order, its `n` answers, and only OAM
written. -/
theorem oamCopy_eq (p : Byte) (n i : Nat) (s : State) :
    ∃ vs m, vs.length = n ∧
      oamCopy p n i s =
        { s with
          oam := m
          history := s.history ++ vs.mapIdx fun j v => .prgRead (dmaSource p (i + j)) v
          answers := s.answers.drop n
          draws := s.draws + (n - s.answers.length) } ∧
      s.Answered (oamCopy p n i s) vs ∧
      m = (vs.mapIdx fun j v => (dmaDest (s.value .oamaddr) (i + j), v)).foldl
        (fun m c => Memory.write m c.1 c.2) s.oam := by
  induction n generalizing i s with
  | zero =>
    refine ⟨[], s.oam, rfl, ?_, State.Answered.refl s, rfl⟩
    simp [oamCopy]
  | succ n ih =>
    have hu : (s.portRead .prg (dmaSource p i)).oamWrite (dmaDest (s.value .oamaddr) i)
        (s.answer .prg (dmaSource p i)) =
      { s with
        oam := Memory.write s.oam (dmaDest (s.value .oamaddr) i) (s.answer .prg (dmaSource p i))
        history := s.history ++ [.prgRead (dmaSource p i) (s.answer .prg (dmaSource p i))]
        answers := s.answers.drop 1
        draws := s.draws + (1 - s.answers.length) } := by
      rw [State.portRead_eq]; rfl
    simp only [oamCopy]
    rw [hu]
    obtain ⟨vs, m, hl, he, ha, hm⟩ := ih (i + 1) _
    rw [he] at ha
    refine ⟨s.answer .prg (dmaSource p i) :: vs, m, by simp [hl], ?_, ?_, ?_⟩
    · rw [he]
      simp only [State.mk.injEq, true_and, and_true, List.mapIdx_cons, List.append_assoc, List.singleton_append,
        Nat.add_zero, List.drop_drop, List.length_drop, Nat.add_assoc, Nat.add_comm 1]
      omega
    · rw [he]
      exact State.Answered.trans (vs := [s.answer .prg (dmaSource p i)])
        (State.answered_one _ _ _ _ rfl rfl) ha
    · rw [hm]
      simp only [List.mapIdx_cons, List.foldl_cons, Nat.add_zero, Nat.add_assoc, Nat.add_comm 1]
      rfl

end Sys2Proof.Machine
end

