-- ==== Sys2Proof/Laws/PerInstr.lean ====
section
/-! SUPPORT. One fact per instruction: its word has an OP of R203 and leaves the reserved bits of its
format 0 (30_encoding.md R201, R206). -/

namespace Sys2Proof.Laws.ReservedBits

/-- The word of the instruction has a listed OP and no reserved bit set. -/
def Statement (i : Instr) : Prop :=
  fieldOp (encode i) ∈ opcodes ∧ encode i &&& Machine.reservedBits (fieldOp (encode i)) = 0

/-- A word of format AD with opcode 0x02. -/
theorem of_formatAD (d : Byte) (a : Addr) :
    fieldOp (formatAD 0x02 d a) ∈ opcodes ∧
      formatAD 0x02 d a &&& Machine.reservedBits (fieldOp (formatAD 0x02 d a)) = 0 := by
  rw [fieldOp_formatAD]
  refine ⟨by decide, (and_eq_zero_iff _ _).mpr fun i hi hm => ?_⟩
  rw [formatAD_bit]
  have : ∀ i, i < 64 → (Machine.reservedBits 0x02).getLsbD i = true → 24 ≤ i ∧ i < 56 := by decide
  obtain ⟨h1, h2⟩ := this i hi hm
  rw [if_neg (by omega), if_neg (by omega), if_pos h2]

/-- A word of format A with opcode 0x01. -/
theorem of_formatA (a : Addr) :
    fieldOp (formatA 0x01 a) ∈ opcodes ∧
      formatA 0x01 a &&& Machine.reservedBits (fieldOp (formatA 0x01 a)) = 0 := by
  rw [fieldOp_formatA]
  refine ⟨by decide, (and_eq_zero_iff _ _).mpr fun i hi hm => ?_⟩
  rw [formatA_bit]
  have : ∀ i, i < 64 → (Machine.reservedBits 0x01).getLsbD i = true → 16 ≤ i ∧ i < 56 := by decide
  obtain ⟨h1, h2⟩ := this i hi hm
  rw [if_neg (by omega), if_pos h2]

/-- A word of format P. -/
theorem of_formatP (y x : Byte) (c : Pixel) :
    fieldOp (formatP 0x11 y x c) ∈ opcodes ∧
      formatP 0x11 y x c &&& Machine.reservedBits (fieldOp (formatP 0x11 y x c)) = 0 := by
  rw [fieldOp_formatP]
  refine ⟨by decide, (and_eq_zero_iff _ _).mpr fun i hi hm => ?_⟩
  rw [formatP_bit]
  have : ∀ i, i < 64 → (Machine.reservedBits 0x11).getLsbD i = true → 32 ≤ i ∧ i < 40 := by decide
  obtain ⟨h1, h2⟩ := this i hi hm
  rw [if_neg (by omega), if_pos h2]

/-- A word of format T. -/
theorem of_formatT (t : BitVec 1) (n : Byte) (r x : BitVec 3) :
    fieldOp (formatT 0x12 t n r x) ∈ opcodes ∧
      formatT 0x12 t n r x &&& Machine.reservedBits (fieldOp (formatT 0x12 t n r x)) = 0 := by
  rw [fieldOp_formatT]
  refine ⟨by decide, (and_eq_zero_iff _ _).mpr fun i hi hm => ?_⟩
  rw [formatT_bit]
  have : ∀ i, i < 64 → (Machine.reservedBits 0x12).getLsbD i = true →
      (3 ≤ i ∧ i < 8) ∨ (11 ≤ i ∧ i < 40) ∨ (49 ≤ i ∧ i < 56) := by decide
  repeat' split
  all_goals first | rfl | (have := this i hi hm; omega)

theorem rdCtrl : Statement .rdCtrl := of_formatA _
theorem rdMask : Statement .rdMask := of_formatA _
theorem rdStatus : Statement .rdStatus := of_formatA _
theorem rdOamaddr : Statement .rdOamaddr := of_formatA _
theorem rdOamdata : Statement .rdOamdata := of_formatA _
theorem rdScroll : Statement .rdScroll := of_formatA _
theorem rdAddr : Statement .rdAddr := of_formatA _
theorem rdData : Statement .rdData := of_formatA _
theorem rdOamdma : Statement .rdOamdma := of_formatA _
theorem rdDmcCtrl : Statement .rdDmcCtrl := of_formatA _
theorem rdDmcAddr : Statement .rdDmcAddr := of_formatA _
theorem rdDmcLen : Statement .rdDmcLen := of_formatA _
theorem rdUnmapped (a : Addr) : Statement (.rdUnmapped a) := of_formatA _
theorem wrCtrl (d : Byte) : Statement (.wrCtrl d) := of_formatAD _ _
theorem wrMask (d : Byte) : Statement (.wrMask d) := of_formatAD _ _
theorem wrStatus (d : Byte) : Statement (.wrStatus d) := of_formatAD _ _
theorem wrOamaddr (d : Byte) : Statement (.wrOamaddr d) := of_formatAD _ _
theorem wrOamdata (d : Byte) : Statement (.wrOamdata d) := of_formatAD _ _
theorem wrScroll (d : Byte) : Statement (.wrScroll d) := of_formatAD _ _
theorem wrAddr (d : Byte) : Statement (.wrAddr d) := of_formatAD _ _
theorem wrData (d : Byte) : Statement (.wrData d) := of_formatAD _ _
theorem wrOamdma (d : Byte) : Statement (.wrOamdma d) := of_formatAD _ _
theorem wrDmcCtrl (d : Byte) : Statement (.wrDmcCtrl d) := of_formatAD _ _
theorem wrDmcAddr (d : Byte) : Statement (.wrDmcAddr d) := of_formatAD _ _
theorem wrDmcLen (d : Byte) : Statement (.wrDmcLen d) := of_formatAD _ _
theorem wrUnmapped (d : Byte) (a : Addr) : Statement (.wrUnmapped d a) := of_formatAD _ _
theorem step : Statement .step := ⟨by decide, by decide⟩
theorem plot (x y : Byte) (c : Pixel) : Statement (.plot x y c) := of_formatP _ _ _
theorem tile (t : BitVec 1) (n : Byte) (r x : BitVec 3) : Statement (.tile t n r x) := of_formatT _ _ _ _
theorem dupd : Statement .dupd := ⟨by decide, by decide⟩
theorem dstart : Statement .dstart := ⟨by decide, by decide⟩
theorem dstop : Statement .dstop := ⟨by decide, by decide⟩
theorem drem : Statement .drem := ⟨by decide, by decide⟩
theorem reset : Statement .reset := ⟨by decide, by decide⟩

end Sys2Proof.Laws.ReservedBits
end

