-- ==== Sys2Proof/Laws/Picture.lean ====
section
/-! SUPPORT. What the parts of STEP do (40_ppu_engine.md R250 to R252). -/

namespace Sys2Proof.Machine

/-- The VBlank set (R251), as an update of one register. -/
theorem vblankEvent_eq (s : State) :
    vblankEvent s =
      { s with regs := { s.regs with
        ppustatus :=
          if s.scanline = 241 ∧ s.cycle = 1 then s.regs.ppustatus ||| 0x80 else s.regs.ppustatus } } := by
  rw [vblankEvent]
  split
  · rw [State.setValue, State.value, Regs.get, BitOps.setBit7_byte]; rfl
  · rfl

/-- The pre-render clear (R252), as an update of one register. -/
theorem preRenderEvent_eq (s : State) :
    preRenderEvent s =
      { s with regs := { s.regs with
        ppustatus :=
          if s.scanline = -1 ∧ s.cycle = 1 then s.regs.ppustatus &&& 0x1F else s.regs.ppustatus } } := by
  rw [preRenderEvent]
  split
  · exact congrArg (fun b => { s with regs := { s.regs with ppustatus := b } })
      (BitOps.mask_byte s.regs.ppustatus 0x1F)
  · rfl

/-- The counter advance within a scanline. -/
theorem counterAdvance_cycle {s : State} (h : s.cycle ≠ 340) :
    counterAdvance s = { s with cycle := s.cycle + 1 } := by
  rw [counterAdvance]
  exact if_neg (by simpa using h)

/-- The counter advance at the end of a scanline that is not the last. -/
theorem counterAdvance_scanline {s : State} (h : s.cycle = 340) (hs : s.scanline ≠ 260) :
    counterAdvance s = { s with cycle := 0, scanline := s.scanline + 1 } := by
  rw [counterAdvance]
  simp only [h, if_true, scanlineAdvance]
  rw [if_neg (by omega)]

/-- The counter advance at the frame boundary (R168). -/
theorem counterAdvance_frame {s : State} (h : s.cycle = 340) (hs : s.scanline = 260) :
    counterAdvance s =
      { s with
        cycle := 0
        scanline := -1
        frame := s.frame + 1
        history := s.history ++ [.frame (s.frame + 1) s.frameBuffer] } := by
  simp [counterAdvance, h, scanlineAdvance, hs, frameBoundary, State.emit]

end Sys2Proof.Machine
end

