-- ==== Sys2Proof/Laws/Step.lean ====
section
/-! SUPPORT. What a command and a step of the block can do. -/

namespace Sys2Proof.Machine

/-- Every command runs: its meaning answers a next state (R450: no operation raises a recoverable error,
and no command waits). -/
theorem exec_next (i : Instr) (s : State) : ∃ t, exec i s = .next t := by
  cases i with
  | plot x y c =>
    simp only [exec, execPlot]
    split <;> exact ⟨_, rfl⟩
  | _ => exact ⟨_, rfl⟩

/-- One step that answers a next state: the block waits, or takes the first command and either runs its
instruction or raises the fault of an ILLEGAL word. -/
theorem step_next {s t : State} (h : step s = .next t) :
    s.fault = none ∧
    ((s.commands = [] ∧ t = s) ∨
     (∃ w rest i, s.commands = w :: rest ∧ decode w = .instr i ∧ exec i { s with commands := rest } = .next t) ∨
     (∃ w rest why, s.commands = w :: rest ∧ decode w = .illegal why ∧
       t = { s with commands := rest, fault := some (.illegalCommand w) })) := by
  simp only [step, State.accept] at h
  cases hf : s.fault with
  | some f => simp [hf] at h
  | none =>
    refine ⟨rfl, ?_⟩
    simp only [hf] at h
    cases hc : s.commands with
    | nil => simp only [hc, Host.Outcome.next.injEq] at h; exact .inl ⟨rfl, h.symm⟩
    | cons w rest =>
      simp only [hc] at h
      cases hd : decode w with
      | instr i => simp only [hd] at h; exact .inr (.inl ⟨w, rest, i, rfl, hd, h⟩)
      | illegal why =>
        simp only [hd, Host.Outcome.next.injEq] at h
        exact .inr (.inr ⟨w, rest, why, rfl, hd, h.symm⟩)

/-- A step of a faulted state answers the fault outcome, and no other state does (R455). -/
theorem step_fault_iff (s : State) (f : FaultRecord) : step s = .fault (.halted f) ↔ s.fault = some f := by
  simp only [step]
  cases hf : s.fault with
  | some g => simp
  | none =>
    simp only [reduceCtorEq, iff_false]
    cases s.accept with
    | none => simp
    | some p =>
      obtain ⟨w, t⟩ := p
      simp only
      cases decode w with
      | instr i => obtain ⟨u, hu⟩ := exec_next i t; simp [hu]
      | illegal why => simp

/-- No step refuses: the model gives every command its meaning. -/
theorem step_not_refused (s : State) (r : Refusal) : step s ≠ .refused r := by
  simp only [step]
  cases s.fault with
  | some g => simp
  | none =>
    cases s.accept with
    | none => simp
    | some p =>
      obtain ⟨w, t⟩ := p
      simp only
      cases decode w with
      | instr i => obtain ⟨u, hu⟩ := exec_next i t; simp [hu]
      | illegal why => simp

end Sys2Proof.Machine
end

