-- ==== Sys2Proof/Laws/Run.lean ====
section
/-! SUPPORT. Sequences of commands (30_encoding.md R211), taken apart. -/

namespace Sys2Proof.Machine

/-- A list of commands runs its first part, then its second. -/
theorem execAll_append {a b : List Instr} {s t : State} (h : execAll a s = .next t) :
    execAll (a ++ b) s = execAll b t := by
  induction a generalizing s with
  | nil => cases h; rfl
  | cons i rest ih =>
    obtain ⟨u, hu⟩ := exec_next i s
    simp only [execAll, hu, List.cons_append] at h ⊢
    exact ih h

/-- One more of the same command. -/
theorem repeatExec_succ {i : Instr} {n : Nat} {s t u : State} (h : repeatExec i n s = .next t)
    (hu : exec i t = .next u) : repeatExec i (n + 1) s = .next u := by
  rw [repeatExec, List.replicate_succ', execAll_append h]
  simp only [execAll, hu]

/-- Every sequence of commands runs to its end: no command stops (R450). -/
theorem execAll_next (l : List Instr) (s : State) : ∃ t, execAll l s = .next t := by
  induction l generalizing s with
  | nil => exact ⟨s, rfl⟩
  | cons i rest ih =>
    obtain ⟨u, hu⟩ := exec_next i s
    obtain ⟨t, ht⟩ := ih u
    exact ⟨t, by simp only [execAll, hu, ht]⟩

end Sys2Proof.Machine
end

