-- ==== Sys2Proof/Laws/Sample.lean ====
section
/-! SUPPORT. What the parts of DUPD do (42_dpcm.md R416, R420 to R425), one lemma for each way a part can
go. -/

namespace Sys2Proof.Machine

/-- Part 1 with an armed start (R416). -/
theorem applyStart_pending {s : State} (h : s.startPending = true) :
    applyStart s =
      { s with
        startPending := false
        dividerPeriod := s.ratePeriod
        dividerCount := s.ratePeriod - 1
        cursorByte := -1
        cursorBit := 0
        sampleAddress := startAddress (s.value .dmcAddr)
        sampleLength := startLength (s.value .dmcLen)
        output := 0
        isActive := true } := by
  rw [applyStart, if_pos h]

/-- Part 1 with none. -/
theorem applyStart_none {s : State} (h : s.startPending = false) : applyStart s = s := by
  rw [applyStart, if_neg (by simp [h])]

/-- The period a start takes is an entry of the table (R401). -/
theorem State.ratePeriod_range (s : State) : 1 ≤ s.ratePeriod ∧ s.ratePeriod ≤ 65535 :=
  (s.params.periods.get (Fin.ofNat 16 (s.field .rate))).property

/-- Part 2. -/
theorem channelTick_idle {s : State} (h : s.isActive = false) : channelTick s = s := by
  rw [channelTick, if_pos (by simp [h])]

/-- Part 3, the divider not elapsed (R422). -/
theorem channelTick_count {s : State} (h : s.isActive = true) (hd : s.dividerCount + 1 < s.dividerPeriod) :
    channelTick s = { s with dividerCount := s.dividerCount + 1 } := by
  rw [channelTick, if_neg (by simp [h])]
  exact if_pos hd

/-- Part 3, the divider elapsed (R422). -/
theorem channelTick_elapsed {s : State} (h : s.isActive = true) (hd : s.dividerPeriod ≤ s.dividerCount + 1) :
    channelTick s = bitDecision { s with dividerCount := 0 } := by
  rw [channelTick, if_neg (by simp [h])]
  exact if_neg (by simpa using hd)

/-- Part 5 on a buffered byte (R425). -/
theorem playBit_some {s : State} {b : Byte} (h : s.buffer = some b) :
    playBit s =
      { s with
        output := if b.getLsbD s.cursorBit then s.output + 1 else s.output - 1
        cursorBit := s.cursorBit + 1 } := by
  rw [playBit, h]
  simp only [BitOps.getBit_toNat]
  cases b.getLsbD s.cursorBit <;> rfl

/-- Parts 4 and 5, bits left in the buffered byte. -/
theorem bitDecision_play {s : State} {b : Byte} (h : s.buffer = some b) (hb : s.cursorBit ≠ 8) :
    bitDecision s =
      { s with
        output := if b.getLsbD s.cursorBit then s.output + 1 else s.output - 1
        cursorBit := s.cursorBit + 1 } := by
  rw [bitDecision, if_neg (by simp [h, hb]), playBit_some h]

/-- Part 4, the sample finished (R423, R424). -/
theorem bitDecision_complete {s : State} (h : s.buffer = none ∨ s.cursorBit = 8)
    (hc : s.sampleLength ≤ s.cursorByte + 1) :
    bitDecision s =
      { s with
        cursorBit := 0
        cursorByte := s.sampleLength
        isActive := false
        buffer := none
        output := 0
        startPending :=
          if s.cursorByte ≠ s.sampleLength ∧ s.regs.dmcCtrl.getLsbD 6 = true then true else s.startPending } := by
  rw [bitDecision, if_pos h]
  have hl : ∀ n : Nat, State.loop { s with cursorBit := n } = s.regs.dmcCtrl.getLsbD 6 := fun n =>
    State.loop_eq { s with cursorBit := n }
  simp only [hl, completeSample, hc, if_true]
  by_cases hq : s.cursorByte = s.sampleLength <;> simp [hq]

/-- Parts 4 and 5, the next byte fetched and its first bit played (R421, R425). -/
theorem bitDecision_fetch {s : State} (h : s.buffer = none ∨ s.cursorBit = 8)
    (hc : s.cursorByte + 1 < s.sampleLength) :
    ∃ v, bitDecision s =
        { s with
          cursorByte := s.cursorByte + 1
          cursorBit := 1
          buffer := some v
          output := if v.getLsbD 0 then s.output + 1 else s.output - 1
          history := s.history ++ [.prgRead (nextFetch s) v]
          answers := s.answers.drop 1
          draws := s.draws + (1 - s.answers.length) } ∧
      s.Answered (bitDecision s) [v] := by
  have e : bitDecision s =
      { s with
        cursorByte := s.cursorByte + 1
        cursorBit := 1
        buffer := some (s.answer .prg (nextFetch s))
        output := if (s.answer .prg (nextFetch s)).getLsbD 0 then s.output + 1 else s.output - 1
        history := s.history ++ [.prgRead (nextFetch s) (s.answer .prg (nextFetch s))]
        answers := s.answers.drop 1
        draws := s.draws + (1 - s.answers.length) } := by
    rw [bitDecision, if_pos h]
    simp only
    rw [if_neg (by omega), playBit_some rfl, fetchByte, State.portRead_eq]
    rfl
  exact ⟨_, e, State.answered_one _ _ _ _ (by rw [e]) (by rw [e])⟩

end Sys2Proof.Machine
end

