-- ==== Sys2Proof/Tests/Slice0.lean ====
section
/-! SUPPORT. Small tests with expected values from spec/95_test_vectors.md and from the worked examples of
the instruction rules, and a witness for the hypotheses of each obligation. -/

namespace Sys2Proof.Tests

open Sys2Proof.Machine

/-! ### Helpers -/

/-- The state after one command. -/
def after (i : Instr) (s : State) : State :=
  match exec i s with
  | .next t => t
  | .fault _ => s
  | .refused _ => s

/-- The state after a list of commands. -/
def afterAll : List Instr → State → State
  | [], s => s
  | i :: rest, s => afterAll rest (after i s)

/-- The state after one step. -/
def stepped (s : State) : State :=
  match step s with
  | .next t => t
  | .fault _ => s
  | .refused _ => s

/-- The fault a step stops with. -/
def stopped (s : State) : Option Fault :=
  match step s with
  | .next _ => none
  | .fault f => some f
  | .refused _ => none

/-- S0 with PPUSTATUS, PPUCTRL and OAMADDR given. -/
def withRegs (status ctrl oamaddr : Byte) : State :=
  { State.reset with regs := { Regs.zero with ppustatus := status, ppuctrl := ctrl, oamaddr := oamaddr } }

/-- S0 at a position, with PPUSTATUS and PPUCTRL given. -/
def atPosition (cycle : Nat) (scanline : Int) (status ctrl : Byte) : State :=
  { withRegs status ctrl 0 with cycle := cycle, scanline := scanline }

/-- S0 with a latch address, PPUCTRL and a read buffer given, and the next read answers. -/
def withLatch (a : Addr) (ctrl buf : Byte) (answers : List Byte) : State :=
  { withRegs 0 ctrl 0 with latch := ⟨a, true⟩, readBuffer := buf, answers := answers }

/-- S0 with the DMC registers and the next read answers given. -/
def withSample (ctrl addr len : Byte) (answers : List Byte) : State :=
  { State.reset with
    regs := { Regs.zero with dmcCtrl := ctrl, dmcAddr := addr, dmcLen := len }
    answers := answers }

/-- S0 with one command issued. -/
def issued (w : Command) : State := State.reset.issue w

/-- The channel of V-D4 after DUPD 379 and 53 more DUPDs: period 54, one byte, all bits played, the divider
about to elapse; the cursor and DMC_CTRL given. -/
def lastBit (cursor : Int) (ctrl : Byte) : State :=
  { withSample ctrl 0 0 [] with
    isActive := true
    dividerPeriod := 54
    dividerCount := 53
    cursorByte := cursor
    cursorBit := 8
    sampleAddress := 0xC000
    sampleLength := 1
    buffer := some 0x01
    output := -6 }

/-- The channel of V-D4 after DUPD 54: one bit of 0x01 played, the divider about to elapse. -/
def secondBit : State := { lastBit 0 0x0F with cursorBit := 1, output := 1 }

/-! ### Well-formedness (R204): the ill-formed terms are refused -/

theorem test_wf_refuses_mapped_read : (Instr.rdUnmapped 0x2000).wf = false ∧ (Instr.rdUnmapped 0x4014).wf = false := by
  decide

theorem test_wf_refuses_mapped_write : (Instr.wrUnmapped 0x80 0x2007).wf = false ∧ (Instr.wrUnmapped 0x80 0x4013).wf = false := by
  decide

theorem test_wf_accepts_unmapped : (Instr.rdUnmapped 0x2008).wf = true ∧ (Instr.wrUnmapped 0x80 0x4011).wf = true := by
  decide

/-! ### Decoding: a word of every constructor, written out from R201, R203 and R60 -/

theorem test_decode_reads :
    decode 0x0100000000002000 = .instr .rdCtrl ∧ decode 0x0100000000002001 = .instr .rdMask ∧
    decode 0x0100000000002002 = .instr .rdStatus ∧ decode 0x0100000000002003 = .instr .rdOamaddr ∧
    decode 0x0100000000002004 = .instr .rdOamdata ∧ decode 0x0100000000002005 = .instr .rdScroll ∧
    decode 0x0100000000002006 = .instr .rdAddr ∧ decode 0x0100000000002007 = .instr .rdData ∧
    decode 0x0100000000004014 = .instr .rdOamdma ∧ decode 0x0100000000004010 = .instr .rdDmcCtrl ∧
    decode 0x0100000000004012 = .instr .rdDmcAddr ∧ decode 0x0100000000004013 = .instr .rdDmcLen ∧
    decode 0x0100000000003002 = .instr (.rdUnmapped 0x3002) := by decide

theorem test_decode_writes :
    decode 0x0200000000FF2000 = .instr (.wrCtrl 0xFF) ∧ decode 0x02000000001E2001 = .instr (.wrMask 0x1E) ∧
    decode 0x0200000000002002 = .instr (.wrStatus 0x00) ∧ decode 0x0200000000FE2003 = .instr (.wrOamaddr 0xFE) ∧
    decode 0x0200000000AA2004 = .instr (.wrOamdata 0xAA) ∧ decode 0x0200000000082005 = .instr (.wrScroll 0x08) ∧
    decode 0x0200000000122006 = .instr (.wrAddr 0x12) ∧ decode 0x0200000000112007 = .instr (.wrData 0x11) ∧
    decode 0x0200000000024014 = .instr (.wrOamdma 0x02) ∧ decode 0x02000000000F4010 = .instr (.wrDmcCtrl 0x0F) ∧
    decode 0x0200000000014012 = .instr (.wrDmcAddr 0x01) ∧ decode 0x0200000000044013 = .instr (.wrDmcLen 0x04) ∧
    decode 0x0200000000804011 = .instr (.wrUnmapped 0x80 0x4011) := by decide

theorem test_decode_units :
    decode 0x1000000000000000 = .instr .step ∧ decode 0x11020300FF0000FF = .instr (.plot 3 2 0xFF0000FF) ∧
    decode 0x11F0000000000000 = .instr (.plot 0 240 0) ∧ decode 0x1200000000000403 = .instr (.tile 0 0 4 3) ∧
    decode 0x1201FF0000000707 = .instr (.tile 1 255 7 7) ∧ decode 0x2000000000000000 = .instr .dupd ∧
    decode 0x2100000000000000 = .instr .dstart ∧ decode 0x2200000000000000 = .instr .dstop ∧
    decode 0x2300000000000000 = .instr .drem ∧ decode 0x3000000000000000 = .instr .reset := by decide

theorem test_decode_illegal :
    decode 0x0100000100002002 = .illegal .reservedBits ∧ decode 0x02000000FF002000 = .illegal .reservedBits ∧
    decode 0x1000000000000001 = .illegal .reservedBits ∧ decode 0x1100000100000000 = .illegal .reservedBits ∧
    decode 0x1202000000000000 = .illegal .reservedBits ∧ decode 0x1200000000000008 = .illegal .reservedBits ∧
    decode 0x0000000000000000 = .illegal .reservedOpcode ∧ decode 0xFF00000000000000 = .illegal .reservedOpcode ∧
    decode 0x0300000000000000 = .illegal .reservedOpcode := by decide

theorem test_decode_table_word :
    decodeTableWord 64 0x0200000000122006 = some (.wrAddr 0x12) ∧ decodeTableWord 64 0x1000000000000001 = none := by
  decide

/-! ### BitOps (B1 to B15) and address decode (M1 to M9) -/

theorem test_bitops_narrow :
    BitOps.toUnsigned8 (-1) = 255 ∧ BitOps.toUnsigned8 256 = 0 ∧ BitOps.toUnsigned16 0x12345 = 0x2345 ∧
    BitOps.toSigned8 0x80 = -128 ∧ BitOps.toSigned8 (-129) = 127 := by decide

theorem test_bitops_bits :
    BitOps.getBit 0x80 7 = 1 ∧ BitOps.getBit 0x80 6 = 0 ∧ BitOps.setBit 0x00 3 1 = 0x08 ∧
    BitOps.setBit 0xFF 0 0 = 0xFE ∧ BitOps.setBit 0x00 2 3 = 0x04 ∧ BitOps.getBits 0xB4 2 3 = 5 ∧
    BitOps.setBits 0xFF 4 2 0 = 0xCF ∧ BitOps.setBits 0x00 0 4 0x1F = 0x0F ∧ BitOps.setBits 0x12 3 3 5 = 0x2A := by
  decide

theorem test_bitops_build :
    BitOps.highByte 0x1234 = 0x12 ∧ BitOps.lowByte 0x1234 = 0x34 ∧ BitOps.buildU16 0x112 0x134 = 0x1234 ∧
    BitOps.buildU2 1 0 = 2 ∧ BitOps.buildU2 3 2 = 2 ∧ BitOps.buildU2 1 1 = 3 := by decide

theorem test_resolve :
    resolve 0x0000 = (.map, 0x0000) ∧ resolve 0x1FFF = (.map, 0x1FFF) ∧ resolve 0x2FFF = (.nt, 0x2FFF) ∧
    resolve 0x3000 = (.nt, 0x2000) ∧ resolve 0x3EFF = (.nt, 0x2EFF) ∧ resolve 0x3F1F = (.pal, 0x3F1F) ∧
    resolve 0x3F20 = (.pal, 0x3F00) ∧ resolve 0x3FE0 = (.pal, 0x3F00) ∧ resolve 0x3FFF = (.pal, 0x3F1F) ∧
    resolve 0x4000 = (.none, 0x4000) ∧ resolve 0xFFFF = (.none, 0xFFFF) := by decide

/-! ### Register-bus reads -/

/-- RB1, RB17, RB18 and the examples of R304, R306, R307, R309, R406, R407. -/
theorem test_write_only_reads :
    (after .rdCtrl (withRegs 0 0x80 0)).result = .u8 0x00 ∧ (after .rdMask State.reset).result = .u8 0x00 ∧
    (after .rdOamaddr (withRegs 0 0 0x10)).result = .u8 0x00 ∧ (after .rdScroll State.reset).result = .u8 0x00 ∧
    (after .rdAddr (withLatch 0x1234 0 0 [])).result = .u8 0x00 ∧ (after .rdOamdma State.reset).result = .u8 0x00 ∧
    (after .rdDmcCtrl (withSample 0x4F 0 0 [])).result = .u8 0x00 ∧
    (after .rdDmcAddr (withSample 0 1 0 [])).result = .u8 0x00 ∧
    (after .rdDmcLen (withSample 0 0 2 [])).result = .u8 0x00 := by decide

/-- RB2 and RB3. -/
theorem test_rd_status :
    (after .rdStatus { withRegs 0x80 0 0 with latch := ⟨0x1234, false⟩ }).result = .u8 0x80 ∧
    (after .rdStatus { withRegs 0x80 0 0 with latch := ⟨0x1234, false⟩ }).latch = ⟨0x1234, true⟩ ∧
    (afterAll [.rdStatus, .rdStatus] (withRegs 0x80 0 0)).result = .u8 0x00 ∧
    (after .rdStatus (withRegs 0xE0 0 0)).value .ppustatus = 0x60 := by decide

/-- RB12. -/
theorem test_rd_oamdata :
    (after .rdOamdata { withRegs 0 0 5 with oam := [(5, 0x3C)] }).result = .u8 0x3C ∧
    (after .rdOamdata { withRegs 0 0 5 with oam := [(5, 0x3C)] }).value .oamaddr = 5 := by decide

/-- RB9. -/
theorem test_rd_data_unmapped :
    let t := after .rdData (withLatch 0x4000 0 0x77 [])
    t.result = .u8 0x77 ∧ t.readBuffer = 0x00 ∧ t.history = [] ∧ t.latch.address = 0x4001 := by decide

/-- RB10. -/
theorem test_rd_data_palette :
    let t := afterAll [.rdData, .rdData] (withLatch 0x3F25 0 0x00 [0x0F, 0x00])
    t.result = .u8 0x0F ∧ t.history = [.palRead 0x3F05 0x0F, .palRead 0x3F06 0x00] := by decide

/-- RB14. -/
theorem test_rd_unmapped :
    (after (.rdUnmapped 0x2008) State.reset).result = .u8 0x00 ∧
    (after (.rdUnmapped 0x4015) State.reset).result = .u8 0x00 := by decide

/-! ### Register-bus writes -/

/-- RB16 and the example of R321. -/
theorem test_wr_ctrl :
    (withRegs 0x80 0 0).nmi = false ∧ (after (.wrCtrl 0x80) (withRegs 0x80 0 0)).nmi = true ∧
    (after (.wrCtrl 0x84) State.reset).nmiEnabled = true ∧ (after (.wrCtrl 0x84) State.reset).inc = 32 := by decide

/-- RB18, the examples of R324, R411, R412 and RB17. -/
theorem test_wr_plain :
    (after (.wrMask 0x1E) State.reset).value .ppumask = 0x1E ∧
    (after (.wrOamaddr 0x10) State.reset).value .oamaddr = 0x10 ∧
    (after (.wrDmcAddr 0x01) State.reset).value .dmcAddr = 0x01 ∧
    (after (.wrDmcLen 0x04) State.reset).value .dmcLen = 0x04 ∧
    (after (.wrDmcCtrl 0x4F) State.reset).value .dmcCtrl = 0x4F ∧
    (after (.wrDmcCtrl 0x4F) State.reset).field .rate = 15 ∧ (after (.wrDmcCtrl 0x4F) State.reset).loop = true := by
  decide

/-- RB4 and RB15. -/
theorem test_wr_ignored :
    after (.wrStatus 0x00) (withRegs 0x80 0 0) = withRegs 0x80 0 0 ∧
    after (.wrUnmapped 0x80 0x2008) State.reset = State.reset := by decide

/-- RB11. -/
theorem test_wr_oamdata :
    let t := after (.wrOamdata 0xAA) (withRegs 0 0 0xFF)
    t.oam = [(255, 0xAA)] ∧ t.value .oamaddr = 0x00 ∧ t.value .oamdata = 0xAA := by decide

/-- The example of R326, and RB6. -/
theorem test_wr_scroll :
    let t := afterAll [.wrScroll 0x08, .wrScroll 0x10] State.reset
    let u := afterAll [.wrScroll 0x08, .wrAddr 0x21] State.reset
    t.scrollX = 0x08 ∧ t.scrollY = 0x10 ∧ t.latch.pendingHighByte = true ∧
    u.scrollX = 0x08 ∧ u.latch = ⟨0x0021, true⟩ := by decide

/-- V-S6 and RB5. -/
theorem test_wr_addr :
    (after (.wrAddr 0x12) State.reset).latch = ⟨0x1200, false⟩ ∧
    (afterAll [.wrAddr 0x12, .wrAddr 0x34] State.reset).latch = ⟨0x1234, true⟩ ∧
    (afterAll [.wrAddr 0x12, .wrAddr 0x34, .wrAddr 0x56] State.reset).latch = ⟨0x5634, false⟩ := by decide

/-- RB7. -/
theorem test_wr_data_steps_32 :
    let t := after (.wrData 0xAB) (withLatch 0x23E0 0x04 0 [])
    t.history = [.ntWrite 0x23E0 0xAB] ∧ t.latch.address = 0x2400 := by decide

/-- RB8. -/
theorem test_wr_data_wraps :
    let t := after (.wrData 0x01) (withLatch 0xFFFF 0x00 0 [])
    t.history = [] ∧ t.latch.address = 0x0000 := by decide

/-- The first two iterations of the copy of R329, with the destination wrapping from 255 to 0. -/
theorem test_oam_copy_wraps :
    let t := oamCopy 0x02 2 0 { withRegs 0 0 0xFF with answers := [0x11, 0x22] }
    t.oam = [(0, 0x22), (255, 0x11)] ∧ t.history = [.prgRead 0x0200 0x11, .prgRead 0x0201 0x22] ∧
    t.value .oamaddr = 0xFF := by decide

/-! ### STEP (S1 to S10) -/

theorem test_step_flags :
    (after .step (atPosition 1 (-1) 0xE0 0)).value .ppustatus = 0x00 ∧
    (after .step (atPosition 0 241 0x00 0)).value .ppustatus = 0x00 ∧
    (after .step (atPosition 1 241 0x00 0)).value .ppustatus = 0x80 ∧
    (after .step (atPosition 1 241 0x80 0)).value .ppustatus = 0x80 := by decide

theorem test_step_counters :
    (after .step State.reset).cycle = 1 ∧ (after .step (atPosition 340 (-1) 0 0)).scanline = 0 ∧
    (after .step (atPosition 340 240 0 0)).scanline = 241 ∧ (after .step (atPosition 340 240 0 0)).cycle = 0 ∧
    (after .step { atPosition 340 260 0 0 with frame := 5 }).scanline = -1 ∧
    (after .step { atPosition 340 260 0 0 with frame := 5 }).history = [.frame 6 []] := by decide

/-! ### TILE (T1 to T7) and PLOT (L1 to L4) -/

theorem test_tile :
    let t1 := after (.tile 0 0 0 0) { State.reset with answers := [0x41, 0x01] }
    let t3 := after (.tile 0 0 0 7) { State.reset with answers := [0x41, 0x01] }
    let t4 := after (.tile 0 0 4 3) { State.reset with answers := [0x10, 0x16] }
    let t5 := after (.tile 0 0 4 5) { State.reset with answers := [0x10, 0x16] }
    t1.result = .u2 0 ∧ t1.history = [.mapRead 0x0000 0x41, .mapRead 0x0008 0x01] ∧ t3.result = .u2 3 ∧
    t4.result = .u2 3 ∧ t4.history = [.mapRead 0x0004 0x10, .mapRead 0x000C 0x16] ∧ t5.result = .u2 2 := by decide

theorem test_tile_last :
    (after (.tile 1 255 7 7) { State.reset with answers := [0, 1] }).history =
      [.mapRead 0x1FF7 0, .mapRead 0x1FFF 1] := by decide

theorem test_plot :
    (after (.plot 3 2 0xFF0000FF) State.reset).frameBuffer = [(515, 0xFF0000FF)] ∧
    (after (.plot 255 239 0x12345678) State.reset).frameBuffer = [(61439, 0x12345678)] ∧
    (afterAll [.plot 0 0 1, .plot 0 0 2] State.reset).frameBuffer = [(0, 2)] := by decide

theorem test_plot_out_of_range :
    after (.plot 0 240 0) State.reset =
      { State.reset with fault := some (.plotOutOfRange 0x11F0000000000000 0 240) } := by decide

/-! ### The SampleChannel (V-D1 to V-D14) -/

/-- V-D1: the DUPD that applies the start fetches byte 0 and plays its bit 0. -/
theorem test_dupd_start :
    let t := afterAll [.dstart, .dupd] (withSample 0x0F 0 0 [0x01])
    t.history = [.prgRead 0xC000 0x01] ∧ t.output = 1 ∧ t.cursorByte = 0 ∧ t.cursorBit = 1 ∧
    t.dividerPeriod = 54 ∧ t.dividerCount = 0 ∧ t.isActive = true := by decide

/-- V-D4 and V-D5 at DUPD 433: completion, and the loop re-arm. -/
theorem test_dupd_completes :
    let t := after .dupd (lastBit 0 0x0F)
    t.isActive = false ∧ t.cursorByte = 1 ∧ t.cursorBit = 0 ∧ t.buffer = none ∧ t.output = 0 ∧
    t.startPending = false ∧ (after .dupd (lastBit 0 0x4F)).startPending = true ∧
    (after .dupd (lastBit 1 0x4F)).startPending = false := by decide

theorem test_dstart_drem :
    (after .dstart State.reset).startPending = true ∧
    (afterAll [.dstart, .drem] (withSample 0x0F 0 0 [])).result = .u32 0 ∧
    (afterAll [.dstart, .dupd, .drem] (withSample 0x0F 0 2 [0])).result = .u32 33 := by decide

/-- V-D6: the stop is lost. -/
theorem test_dstop_lost :
    let t := afterAll [.dstart, .dstop, .dupd] (withSample 0x0F 0 0 [0x00])
    t.isActive = true ∧ t.cursorByte = 0 ∧ t.output = -1 := by decide

/-- V-D14. -/
theorem test_dstop_drem :
    (after .dstop secondBit).cursorByte = 1 ∧ (afterAll [.dstop, .drem] secondBit).result = .u32 0 ∧
    (after .dstop secondBit).isActive = true := by decide

/-- V-D7 and V-D8. -/
theorem test_fetch_address : fetchAddr 0xFFFE 3 = 0x8002 ∧ fetchAddr 0xFFC0 64 = 0x8001 ∧ fetchAddr 0xFFC0 63 = 0xFFFF := by
  decide

/-- V-D9: a restart keeps the buffered byte, and no byte is fetched. -/
theorem test_dupd_stale :
    let t := afterAll [.dstart, .dupd] { withSample 0x0F 0 0 [] with buffer := some 0x0F }
    t.cursorByte = -1 ∧ t.cursorBit = 1 ∧ t.output = 1 ∧ t.history = [] ∧ (after .drem t).result = .u32 2 := by decide

/-! ### Faults, RESET and the step (V-F1 to V-F4) -/

theorem test_step_illegal :
    (stepped (issued 0x1000000000000001)).fault = some (.illegalCommand 0x1000000000000001) ∧
    (stepped (issued 0x1000000000000001)).cycle = 0 := by decide

theorem test_step_after_fault :
    stopped ((stepped (issued 0x1000000000000001)).issue 0x3000000000000000) =
      some (.halted (.illegalCommand 0x1000000000000001)) := by decide

/-- V-F4: RESET clears OAM, the registers and the toggle, and keeps the history. -/
theorem test_reset :
    let t := after .reset { withRegs 0 0x80 4 with
      oam := [(4, 1)], latch := ⟨1, false⟩, history := [.prgRead 0 0], cycle := 9 }
    t.oam = [] ∧ t.regs = Regs.zero ∧ t.latch = ⟨0, true⟩ ∧ t.history = [.prgRead 0 0] ∧ t.cycle = 0 := by decide

/-- The first instruction after reset, issued by the driver, runs. -/
theorem test_first_instruction :
    (stepped (State.reset.withFetchWord 64 0x1000000000000000)).cycle = 1 ∧
    (stepped (State.reset.withFetchWord 64 0x1000000000000000)).commands = [] := by decide

/-! ### The layout check (R57, R452) -/

theorem test_layout_overlap :
    layoutError [(.ppuctrl, [.ntId, ⟨.ppuctrl, .inc, 1, 1, true⟩])] = some (0x2000, .ntId, .inc) ∧
    layoutError [(.dmcCtrl, [⟨.dmcCtrl, .rate, 5, 4, true⟩])] = some (0x4010, .rate, .rate) := by decide

/-- A field of width 0 inside an earlier field shares no bit with it (R57) and is invalid by itself (R452);
that it is named twice is log entry 11. -/
theorem test_layout_width_zero :
    Field.overlaps ⟨.dmcCtrl, .rate, 0, 4, true⟩ ⟨.dmcCtrl, .loop, 2, 0, true⟩ = false ∧
    layoutError [(.dmcCtrl, [⟨.dmcCtrl, .rate, 0, 4, true⟩, ⟨.dmcCtrl, .loop, 2, 0, true⟩])] =
      some (0x4010, .loop, .loop) := by decide

/-! ### Witnesses: for each obligation with hypotheses, a state and operands that meet all of them, each
clause at a boundary of its range -/

theorem test_witness_decode_encode_round_trip :
    (Instr.rdUnmapped 0x1FFF).wf = true ∧ (Instr.wrUnmapped 0xFF 0x2008).wf = true ∧
    (Instr.plot 255 255 0xFFFFFFFF).wf = true ∧ (Instr.tile 1 255 7 7).wf = true ∧ Instr.reset.wf = true := by decide

theorem test_witness_decoded_words_are_the_encoders_own :
    decode 0x11FFFFFF00000000 = .illegal .reservedBits ∧ decode 0x11FFFF00FFFFFFFF = .instr (.plot 255 255 0xFFFFFFFF) := by
  decide

theorem test_witness_row_that_matches_decodes :
    (0x02000000002A2000 &&& 0xFFFFFFFFFF00FFFF : Command) = 0x0200000000002000 ∧
    (0x0100000000002008 &&& 0xFFFFFFFFFFFF0000 : Command) = 0x0100000000000000 ∧
    (0x0100000000002007 &&& 0xFFFFFFFFFFFF0000 : Command) = 0x0100000000000000 ∧
    (0x0200000000FF4011 &&& 0xFFFFFFFFFF000000 : Command) = 0x0200000000000000 ∧
    (0x0200000000FF4010 &&& 0xFFFFFFFFFF000000 : Command) = 0x0200000000000000 ∧
    (0x2008 : Addr) ∉ busAddresses ∧ (0x2007 : Addr) ∈ busAddresses := by decide

theorem test_witness_step_runs_the_decoded_command :
    (issued 0x1000000000000000).fault = none ∧ (issued 0x1000000000000000).commands = [0x1000000000000000] ∧
    decode 0x1000000000000000 = .instr .step := by decide

theorem test_witness_step_waits_for_the_driver : State.reset.fault = none ∧ State.reset.commands = [] := by decide

/-- An unlisted OP, and the lowest and the highest reserved bit of a listed one. -/
theorem test_witness_illegal_command_faults :
    (issued 0x0300000000000000).fault = none ∧ (issued 0x0300000000000000).commands = [0x0300000000000000] ∧
    fieldOp 0x0300000000000000 ∉ opcodes ∧
    (0x1200000000000008 &&& reservedBits (fieldOp 0x1200000000000008) : Command) ≠ 0 ∧
    (0x1080000000000000 &&& reservedBits (fieldOp 0x1080000000000000) : Command) ≠ 0 := by decide

theorem test_witness_plot_out_of_range_faults :
    (issued 0x11F0000000000000).fault = none ∧ (issued 0x11F0000000000000).commands = [0x11F0000000000000] ∧
    decode 0x11F0000000000000 = .instr (.plot 0 240 0) ∧ 240 ≤ (240 : Byte).toNat ∧
    decode 0x11FF000000000001 = .instr (.plot 0 255 1) := by decide

theorem test_witness_faults_have_only_their_two_causes :
    (issued 0x11F0000000000000).fault = none ∧
    step (issued 0x11F0000000000000) = .next (stepped (issued 0x11F0000000000000)) ∧
    (stepped (issued 0x11F0000000000000)).fault = some (.plotOutOfRange 0x11F0000000000000 0 240) ∧
    step (issued 0xFF00000000000000) = .next (stepped (issued 0xFF00000000000000)) ∧
    (stepped (issued 0xFF00000000000000)).fault = some (.illegalCommand 0xFF00000000000000) :=
  ⟨by decide, rfl, by decide, rfl, by decide⟩

/-- A state that has faulted. -/
def faulted : State := { State.reset with fault := some (.illegalCommand 0) }

theorem test_witness_fault_is_terminal :
    faulted.fault = some (.illegalCommand 0) ∧ exec .reset faulted = .next (after .reset faulted) ∧
    faulted.fault.isSome = true := ⟨by decide, rfl, by decide⟩

theorem test_witness_vblank_set_raises_nmi :
    (atPosition 1 241 0 0x80).scanline = 241 ∧ (atPosition 1 241 0 0x80).cycle = 1 ∧
    (atPosition 1 241 0 0x80).nmiEnabled = true ∧ (atPosition 1 241 0 0).nmiEnabled = false := by decide

theorem test_witness_pre_render_step_clears_flags :
    (atPosition 1 (-1) 0xFF 0x80).scanline = -1 ∧ (atPosition 1 (-1) 0xFF 0x80).cycle = 1 ∧
    (atPosition 1 (-1) 0xFF 0x80).nmi = true := by decide

/-- The first and the last position of a frame. -/
theorem test_witness_step_moves_the_linear_position :
    (atPosition 0 (-1) 0 0).PositionOk ∧ (atPosition 0 (-1) 0 0).position = 0 ∧
    (atPosition 340 260 0 0).PositionOk ∧ (atPosition 340 260 0 0).position = 89341 :=
  ⟨⟨by decide, by decide, by decide⟩, by decide, ⟨by decide, by decide, by decide⟩, by decide⟩

theorem test_witness_frame_period : State.reset.PositionOk ∧ (atPosition 340 260 0 0).PositionOk :=
  ⟨⟨by decide, by decide, by decide⟩, ⟨by decide, by decide, by decide⟩⟩

theorem test_witness_vblank_schedule :
    State.reset.cycle = 0 ∧ State.reset.scanline = -1 ∧ State.reset.vblank = false := by decide

/-- The last row that is written and the first that faults. -/
theorem test_witness_plot_writes_one_entry :
    (0x11EFFF0012345678 &&& 0xFF0000FF00000000 : Command) = 0x1100000000000000 ∧ (239 : Byte).toNat < 240 ∧
    Memory.wf State.reset.frameBuffer = true ∧ 240 ≤ (240 : Byte).toNat := by decide

theorem test_witness_tile_unpacks_one_pixel :
    (0x1201FF0000000707 &&& 0xFFFE00FFFFFFF8F8 : Command) = 0x1200000000000000 := by decide

/-- The last address that reads a port and the first that does not. -/
theorem test_witness_data_port_read_effect :
    (withLatch 0x3FFF 0 0 []).latch.address.toNat < 0x4000 ∧ 0x4000 ≤ (withLatch 0x4000 0 0 []).latch.address.toNat := by
  decide

theorem test_witness_unmapped_read_effect :
    (0x0100000000002008 &&& 0xFFFFFFFFFFFF0000 : Command) = 0x0100000000000000 ∧
    (0x0100000000002008 : Command).extractLsb' 0 16 ∉ busAddresses := by decide

theorem test_witness_control_write_reevaluates_nmi :
    (0x0200000000802000 &&& 0xFFFFFFFFFF00FFFF : Command) = 0x0200000000002000 ∧
    exec (.wrCtrl 0x80) State.reset = .next (after (.wrCtrl 0x80) State.reset) := ⟨by decide, rfl⟩

theorem test_witness_plain_register_writes :
    (0x02000000001E2001 &&& 0xFFFFFFFFFF00FFFF : Command) = 0x0200000000002001 ∧
    (0x0200000000FE2003 &&& 0xFFFFFFFFFF00FFFF : Command) = 0x0200000000002003 ∧
    (0x0200000000014012 &&& 0xFFFFFFFFFF00FFFF : Command) = 0x0200000000004012 ∧
    (0x0200000000FF4013 &&& 0xFFFFFFFFFF00FFFF : Command) = 0x0200000000004013 := by decide

theorem test_witness_sample_control_write :
    (0x02000000004F4010 &&& 0xFFFFFFFFFF00FFFF : Command) = 0x0200000000004010 ∧
    exec (.wrDmcCtrl 0x4F) State.reset = .next (after (.wrDmcCtrl 0x4F) State.reset) := ⟨by decide, rfl⟩

theorem test_witness_ignored_writes :
    (0x0200000000FF2002 &&& 0xFFFFFFFFFF00FFFF : Command) = 0x0200000000002002 ∧
    (0x0200000000804011 &&& 0xFFFFFFFFFF000000 : Command) = 0x0200000000000000 ∧
    (0x0200000000804011 : Command).extractLsb' 0 16 ∉ busAddresses := by decide

theorem test_witness_oam_data_write_effect :
    (0x0200000000AA2004 &&& 0xFFFFFFFFFF00FFFF : Command) = 0x0200000000002004 ∧
    Memory.wf (withRegs 0 0 0xFF).oam = true := by decide

theorem test_witness_scroll_write_effect :
    (0x0200000000082005 &&& 0xFFFFFFFFFF00FFFF : Command) = 0x0200000000002005 := by decide

theorem test_witness_address_write_effect :
    (0x0200000000122006 &&& 0xFFFFFFFFFF00FFFF : Command) = 0x0200000000002006 := by decide

theorem test_witness_data_port_write_effect :
    (0x0200000000112007 &&& 0xFFFFFFFFFF00FFFF : Command) = 0x0200000000002007 := by decide

theorem test_witness_oam_dma_copies_a_page :
    (0x0200000000FF4014 &&& 0xFFFFFFFFFF00FFFF : Command) = 0x0200000000004014 ∧
    Memory.wf ({ withRegs 0 0 4 with oam := [(255, 0x3C)] }).oam = true := by decide

/-- The channel invariant holds of an idle channel and of an active one. -/
theorem test_witness_channel_idle : State.reset.ChannelOk where
  cursorLow := by decide
  cursorHigh := by decide
  cursorBit := by decide
  length := by decide
  period := by decide
  divider := by decide
  dividerIdle := by decide
  activeAddress := by decide
  activeLength := by decide
  playing := by decide
  idle := by decide
  output := by decide

/-- The last bit of a byte played, the cursor at the end: the state of V-D14 at its last DUPD. -/
theorem test_witness_channel_active : (lastBit 1 0x4F).ChannelOk where
  cursorLow := by decide
  cursorHigh := by decide
  cursorBit := by decide
  length := by decide
  period := by decide
  divider := by decide
  dividerIdle := by decide
  activeAddress := fun _ => ⟨0, by decide, by decide⟩
  activeLength := fun _ => ⟨0, by decide, by decide⟩
  playing := by decide
  idle := by decide
  output := by decide

theorem test_witness_remaining_bytes :
    State.reset.ChannelOk ∧ State.reset.isActive = false ∧ (lastBit 1 0x4F).ChannelOk ∧
    (lastBit 1 0x4F).isActive = true :=
  ⟨test_witness_channel_idle, by decide, test_witness_channel_active, by decide⟩

/-- One state for each way a DUPD can go. -/
theorem test_witness_update_one_audio_cycle :
    (after .dstart State.reset).startPending = true ∧
    State.reset.startPending = false ∧ State.reset.isActive = false ∧
    ({ secondBit with dividerCount := 52 }).startPending = false ∧ ({ secondBit with dividerCount := 52 }).isActive = true ∧
    ({ secondBit with dividerCount := 52 }).dividerCount + 1 < ({ secondBit with dividerCount := 52 }).dividerPeriod ∧
    secondBit.startPending = false ∧ secondBit.isActive = true ∧ secondBit.dividerPeriod ≤ secondBit.dividerCount + 1 ∧
    secondBit.buffer = some 0x01 ∧ secondBit.cursorBit ≠ 8 ∧
    (lastBit 0 0x4F).cursorBit = 8 ∧ ((lastBit 0 0x4F).sampleLength : Int) ≤ (lastBit 0 0x4F).cursorByte + 1 ∧
    (lastBit (-1) 0x4F).cursorByte + 1 < (lastBit (-1) 0x4F).sampleLength ∧
    ({ lastBit 0 0x4F with buffer := none }).buffer = none := by decide

theorem test_witness_fetch_address_wraps :
    (0 : Int) ≤ 0xFFFF ∧ (0xFFFF : Int) + 4080 > 0xFFFF ∧ (0xFFFF : Int) + 1 > 0xFFFF ∧
    fetchAddr 0xFFFF 4080 = 0x8FF0 ∧ fetchAddr 0xFFFF 1 = 0x8001 := by decide

/-- A start pending with no byte buffered and with a stale one: P = 54 and L = 1. -/
theorem test_witness_sample_playback_schedule :
    let s := after .dstart (withSample 0x0F 0 0 [])
    let u := { s with buffer := some 0x0F }
    s.startPending = true ∧
    54 = (s.params.periods.get (Fin.ofNat 16 (s.regs.dmcCtrl.toNat % 16))).val ∧
    1 = s.regs.dmcLen.toNat * 16 + 1 ∧ 0 = s.buffer.toList.length ∧ 1 = u.buffer.toList.length ∧
    1 ≤ 432 ∧ 432 ≤ 8 * (1 + 0) * 54 ∧ 864 ≤ 8 * (1 + 1) * 54 := by decide

theorem test_witness_stop_latency :
    (lastBit 1 0x4F).ChannelOk ∧ (lastBit 1 0x4F).isActive = true ∧ (lastBit 1 0x4F).startPending = false ∧
    (lastBit 1 0x4F).cursorByte = (lastBit 1 0x4F).sampleLength :=
  ⟨test_witness_channel_active, by decide, by decide, by decide⟩

theorem test_witness_stop_before_the_start_is_lost : (after .dstart (lastBit 0 0x4F)).startPending = true := by decide

/-- The state of V-D14 with its last DUPD issued. -/
def lastDupd : State := (lastBit 1 0x4F).issue 0x2000000000000000

theorem test_witness_step_keeps_the_invariant : lastDupd.Inv ∧ step lastDupd = .next (stepped lastDupd) :=
  have h := test_witness_channel_active
  ⟨⟨⟨by decide, by decide, by decide⟩, by decide, by decide, by decide, by decide, by decide,
    ⟨h.1, h.2, h.3, h.4, h.5, h.6, h.7, h.8, h.9, h.10, h.11, h.12⟩, by decide⟩, rfl⟩

theorem test_witness_output_stays_bounded :
    lastDupd.Inv ∧ Host.Core.run Sys2Proof.core 1 lastDupd = .next (stepped lastDupd) :=
  ⟨test_witness_step_keeps_the_invariant.1, rfl⟩

/-- A step that emits a frame event. -/
theorem test_witness_history_only_grows :
    step ((atPosition 340 260 0 0).issue 0x1000000000000000) =
      .next (stepped ((atPosition 340 260 0 0).issue 0x1000000000000000)) ∧
    (stepped ((atPosition 340 260 0 0).issue 0x1000000000000000)).history = [.frame 1 []] := ⟨rfl, by decide⟩

theorem test_witness_registers_change_only_by_their_commands :
    exec (.wrCtrl 0x80) State.reset = .next (after (.wrCtrl 0x80) State.reset) ∧
    mayWrite (.wrCtrl 0x80) .ppumask = false ∧ mayWrite (.wrCtrl 0x80) .ppuctrl = true := ⟨rfl, by decide, by decide⟩

theorem test_witness_frame_buffer_changes_only_by_plot :
    exec (.plot 255 239 1) State.reset = .next (after (.plot 255 239 1) State.reset) ∧
    (after (.plot 255 239 1) State.reset).frameBuffer ≠ State.reset.frameBuffer := ⟨rfl, by decide⟩

theorem test_witness_position_moves_only_by_step :
    exec .rdStatus State.reset = .next (after .rdStatus State.reset) ∧ Instr.rdStatus ≠ .step ∧
    Instr.rdStatus ≠ .reset := ⟨rfl, by decide, by decide⟩

theorem test_witness_nmi_is_a_level :
    (lastBit 0 0).regs.ppustatus = State.reset.regs.ppustatus ∧ (lastBit 0 0).regs.ppuctrl = State.reset.regs.ppuctrl := by
  decide

/-- A rise and a fall. -/
theorem test_witness_nmi_changes_only_where_the_spec_says :
    exec .step (atPosition 1 241 0 0x80) = .next (after .step (atPosition 1 241 0 0x80)) ∧
    (atPosition 1 241 0 0x80).nmi = false ∧ (after .step (atPosition 1 241 0 0x80)).nmi = true ∧
    exec .rdStatus (withRegs 0x80 0x80 0) = .next (after .rdStatus (withRegs 0x80 0x80 0)) ∧
    (withRegs 0x80 0x80 0).nmi = true ∧ (after .rdStatus (withRegs 0x80 0x80 0)).nmi = false :=
  ⟨rfl, by decide, by decide, rfl, by decide, by decide⟩

theorem test_witness_picture_commands_leave_the_channel :
    exec (.wrData 1) secondBit = .next (after (.wrData 1) secondBit) ∧ isSampleCommand (.wrData 1) = false ∧
    Instr.wrData 1 ≠ .reset := ⟨rfl, by decide, by decide⟩

theorem test_witness_channel_commands_leave_the_picture :
    exec .dupd secondBit = .next (after .dupd secondBit) ∧ isSampleCommand .dupd = true ∧
    RegName.ppuctrl ≠ .dmcCtrl ∧ RegName.ppuctrl ≠ .dmcAddr ∧ RegName.ppuctrl ≠ .dmcLen := by
  exact ⟨rfl, by decide, by decide, by decide, by decide⟩

/-- A writable and a read-only field, each with another field of its register. -/
theorem test_witness_field_writes_are_exact :
    Field.ntId ∈ RegName.fields Field.ntId.reg ∧ Field.nmiEn ∈ RegName.fields Field.ntId.reg ∧
    Field.ntId.writable = true ∧ Field.nmiEn ≠ Field.ntId ∧
    Field.vblank ∈ RegName.fields Field.vblank.reg ∧ Field.vblank.writable = false := by decide

end Sys2Proof.Tests
end

/-! PROOFS. The block's two engines are independent (00_scope.md R1, R4): the part of the state each one
owns, and that the other one's commands leave it alone. The bit primitives of R22 and R24. -/

namespace Sys2Proof.Machine

open Host (Outcome)

/-! ### The SampleChannel's part of the state -/

/-- What the SampleChannel owns: the three DMC registers and the state of R90 to R97. -/
structure ChannelPart where
  dmcCtrl : Byte
  dmcAddr : Byte
  dmcLen : Byte
  isActive : Bool
  startPending : Bool
  dividerPeriod : Nat
  dividerCount : Nat
  cursorByte : Int
  cursorBit : Nat
  sampleAddress : Addr
  sampleLength : Nat
  buffer : Option Byte
  output : Int

/-- The SampleChannel's part of a state. -/
def State.channelPart (s : State) : ChannelPart where
  dmcCtrl := s.regs.dmcCtrl
  dmcAddr := s.regs.dmcAddr
  dmcLen := s.regs.dmcLen
  isActive := s.isActive
  startPending := s.startPending
  dividerPeriod := s.dividerPeriod
  dividerCount := s.dividerCount
  cursorByte := s.cursorByte
  cursorBit := s.cursorBit
  sampleAddress := s.sampleAddress
  sampleLength := s.sampleLength
  buffer := s.buffer
  output := s.output

/-- Two states have the same channel part exactly when each of its items is the same. -/
theorem State.channelPart_eq_iff {s t : State} :
    t.channelPart = s.channelPart ↔
      t.regs.dmcCtrl = s.regs.dmcCtrl ∧ t.regs.dmcAddr = s.regs.dmcAddr ∧ t.regs.dmcLen = s.regs.dmcLen ∧
      t.isActive = s.isActive ∧ t.startPending = s.startPending ∧ t.dividerPeriod = s.dividerPeriod ∧
      t.dividerCount = s.dividerCount ∧ t.cursorByte = s.cursorByte ∧ t.cursorBit = s.cursorBit ∧
      t.sampleAddress = s.sampleAddress ∧ t.sampleLength = s.sampleLength ∧ t.buffer = s.buffer ∧
      t.output = s.output := by
  simp only [State.channelPart, ChannelPart.mk.injEq]

@[simp] theorem State.channelPart_respond (s : State) (r : Result) :
    (s.respond r).channelPart = s.channelPart := rfl

@[simp] theorem State.channelPart_advanceLatch (s : State) : s.advanceLatch.channelPart = s.channelPart := rfl

@[simp] theorem State.channelPart_flipToggle (s : State) : s.flipToggle.channelPart = s.channelPart := rfl

/-- A PPU-space read takes an answer and records an event at most. -/
@[simp] theorem State.channelPart_ppuRead (s : State) (a : Addr) : (s.ppuRead a).channelPart = s.channelPart := by
  by_cases ha : a.toNat < 0x4000
  · rw [(s.ppuRead_mapped ha).1]; rfl
  · rw [(s.ppuRead_unmapped (by omega)).1]

@[simp] theorem State.channelPart_ppuWrite (s : State) (a : Addr) (v : Byte) :
    (s.ppuWrite a v).channelPart = s.channelPart := by
  rw [State.ppuWrite_eq]; rfl

/-- The OAM-DMA copy writes only OAM. -/
@[simp] theorem channelPart_oamCopy (p : Byte) (n i : Nat) (s : State) :
    (oamCopy p n i s).channelPart = s.channelPart := by
  obtain ⟨_, _, _, he, _⟩ := oamCopy_eq p n i s
  rw [he]; rfl

@[simp] theorem channelPart_vblankEvent (s : State) : (vblankEvent s).channelPart = s.channelPart := by
  rw [vblankEvent_eq]; rfl

@[simp] theorem channelPart_preRenderEvent (s : State) : (preRenderEvent s).channelPart = s.channelPart := by
  rw [preRenderEvent_eq]; rfl

/-- The counter advance moves the position and, at the frame boundary, delivers the frame. -/
@[simp] theorem channelPart_counterAdvance (s : State) : (counterAdvance s).channelPart = s.channelPart := by
  by_cases hc : s.cycle = 340
  · by_cases hs : s.scanline = 260
    · rw [counterAdvance_frame hc hs]; rfl
    · rw [counterAdvance_scanline hc hs]; rfl
  · rw [counterAdvance_cycle hc]; rfl

/-- A command of the PictureEngine keeps the channel's part. -/
theorem exec_channelPart {i : Instr} {s t : State} (h : exec i s = .next t) (hi : isSampleCommand i = false)
    (hr : i ≠ .reset) : t.channelPart = s.channelPart := by
  cases i with
  | reset => exact absurd rfl hr
  | rdDmcCtrl | rdDmcAddr | rdDmcLen | wrDmcCtrl | wrDmcAddr | wrDmcLen | dupd | dstart | dstop | drem => cases hi
  | step => cases h; simp
  | tile => cases h; simp
  | rdData => cases h; exact s.channelPart_ppuRead s.latch.address
  | wrData d =>
    cases h
    rw [State.channelPart_respond, State.channelPart_advanceLatch, State.channelPart_ppuWrite]; rfl
  | wrOamdma d =>
    simp only [exec, execWrOamdma, Outcome.next.injEq] at h
    rw [← h, State.channelPart_respond, channelPart_oamCopy]; rfl
  | wrScroll d =>
    cases h
    rw [State.channelPart_respond, State.channelPart_flipToggle]
    split <;> rfl
  | plot x y c =>
    simp only [exec, execPlot] at h
    split at h <;> cases h <;> rfl
  | _ => cases h; rfl

/-! ### The PictureEngine's part of the state -/

/-- The nine PPU registers (R60). -/
def RegName.ofPicture : List RegName :=
  [.ppuctrl, .ppumask, .ppustatus, .oamaddr, .oamdata, .ppuscroll, .ppuaddr, .ppudata, .oamdma]

/-- Every register but the three of the SampleChannel is one of the nine. -/
theorem RegName.mem_ofPicture {r : RegName} :
    r ∈ RegName.ofPicture ↔ r ≠ .dmcCtrl ∧ r ≠ .dmcAddr ∧ r ≠ .dmcLen := by
  cases r <;> decide

/-- What the PictureEngine owns: the nine PPU registers and the state of R80 to R87, and the fault (R103). -/
structure PicturePart where
  values : List Byte
  cycle : Nat
  scanline : Int
  frame : Nat
  latch : Latch
  scrollX : Byte
  scrollY : Byte
  readBuffer : Byte
  oam : List Host.Cell
  frameBuffer : List (Nat × Pixel)
  fault : Option FaultRecord

/-- The PictureEngine's part of a state. -/
def State.picturePart (s : State) : PicturePart where
  values := RegName.ofPicture.map s.value
  cycle := s.cycle
  scanline := s.scanline
  frame := s.frame
  latch := s.latch
  scrollX := s.scrollX
  scrollY := s.scrollY
  readBuffer := s.readBuffer
  oam := s.oam
  frameBuffer := s.frameBuffer
  fault := s.fault

/-- Two states have the same picture part exactly when each of its items is the same. -/
theorem State.picturePart_eq_iff {s t : State} :
    t.picturePart = s.picturePart ↔
      (∀ r, r ≠ .dmcCtrl → r ≠ .dmcAddr → r ≠ .dmcLen → t.value r = s.value r) ∧
      t.cycle = s.cycle ∧ t.scanline = s.scanline ∧ t.frame = s.frame ∧ t.latch = s.latch ∧
      t.scrollX = s.scrollX ∧ t.scrollY = s.scrollY ∧ t.readBuffer = s.readBuffer ∧ t.oam = s.oam ∧
      t.frameBuffer = s.frameBuffer ∧ t.fault = s.fault := by
  simp only [State.picturePart, PicturePart.mk.injEq, List.map_inj_left, RegName.mem_ofPicture, and_imp]

/-- `nmi` is a function of PPUSTATUS and PPUCTRL (R100). -/
theorem State.nmi_congr {s t : State} (hs : t.value .ppustatus = s.value .ppustatus)
    (hc : t.value .ppuctrl = s.value .ppuctrl) : t.nmi = s.nmi := by
  simp only [State.value, Regs.get] at hs hc
  rw [State.nmi, State.nmi, State.vblank_eq, State.nmiEnabled_eq, hs, hc, ← State.vblank_eq, ← State.nmiEnabled_eq]

@[simp] theorem State.picturePart_respond (s : State) (r : Result) :
    (s.respond r).picturePart = s.picturePart := rfl

@[simp] theorem picturePart_applyStart (s : State) : (applyStart s).picturePart = s.picturePart := by
  cases hp : s.startPending with
  | true => rw [applyStart_pending hp]; rfl
  | false => rw [applyStart_none hp]

/-- Parts 4 and 5 of DUPD: the sample completes, or a byte is fetched, or a bit of the byte held is played. -/
@[simp] theorem picturePart_bitDecision (s : State) : (bitDecision s).picturePart = s.picturePart := by
  by_cases hn : s.buffer = none ∨ s.cursorBit = 8
  · by_cases hc : s.sampleLength ≤ s.cursorByte + 1
    · rw [bitDecision_complete hn hc]; rfl
    · obtain ⟨v, he, _⟩ := bitDecision_fetch hn (by omega)
      rw [he]; rfl
  · obtain ⟨hheld, h8⟩ := not_or.mp hn
    obtain ⟨b, hb⟩ := Option.ne_none_iff_exists'.mp hheld
    rw [bitDecision_play hb h8]; rfl

/-- Parts 2 to 5 of DUPD: idle, the divider counting, or the divider elapsed. -/
@[simp] theorem picturePart_channelTick (s : State) : (channelTick s).picturePart = s.picturePart := by
  cases ha : s.isActive with
  | false => rw [channelTick_idle ha]
  | true =>
    by_cases hd : s.dividerCount + 1 < s.dividerPeriod
    · rw [channelTick_count ha hd]; rfl
    · rw [channelTick_elapsed ha (by omega), picturePart_bitDecision]; rfl

/-- A command of the SampleChannel keeps the picture's part. -/
theorem exec_picturePart {i : Instr} {s t : State} (h : exec i s = .next t) (hi : isSampleCommand i = true) :
    t.picturePart = s.picturePart := by
  cases i with
  | dupd => cases h; simp
  | rdDmcCtrl | rdDmcAddr | rdDmcLen | wrDmcCtrl | wrDmcAddr | wrDmcLen | dstart | dstop | drem => cases h; rfl
  | _ => cases hi

/-! ### The bit primitives -/

/-- The mask of R24 for a field of `size` bits that begins at bit 0. -/
theorem BitOps.testBit_mask (size k : Nat) : ((1 <<< size) - 1).testBit k = decide (k < size) := by
  rw [Nat.one_shiftLeft, Nat.testBit_two_pow_sub_one]

/-- `n & ~m` of R7, bit by bit. -/
theorem BitOps.testBit_andNot (n m k : Nat) : (andNot n m).testBit k = (n.testBit k && !m.testBit k) := by
  rw [andNot, Nat.testBit_xor, Nat.testBit_and]
  cases n.testBit k <;> cases m.testBit k <;> rfl

/-- `getBits`, bit by bit (R24). -/
theorem BitOps.testBit_getBits (x start size k : Nat) :
    (getBits x start size).testBit k = (decide (k < size) && x.testBit (start + k)) := by
  rw [getBits, Nat.testBit_and, Nat.testBit_shiftRight, testBit_mask, Bool.and_comm]

/-- `setBits`, bit by bit (R24). -/
theorem BitOps.testBit_setBits (x start size v k : Nat) :
    (setBits x start size v).testBit k =
      if start ≤ k ∧ k < start + size then v.testBit (k - start) else x.testBit k := by
  simp only [setBits, Nat.testBit_or, testBit_andNot, Nat.testBit_shiftLeft, Nat.testBit_and, testBit_mask]
  by_cases hlo : start ≤ k
  · have hsub : k - start < size ↔ k < start + size := by omega
    by_cases hhi : k < start + size <;> simp [hlo, hhi, hsub]
  · simp [hlo]

/-- `getBits` reads back what `setBits` wrote (R24). -/
theorem BitOps.getBits_setBits (x start size v : Nat) :
    getBits (setBits x start size v) start size = v % 2 ^ size := by
  refine Nat.eq_of_testBit_eq fun k => ?_
  rw [testBit_getBits, testBit_setBits, Nat.testBit_mod_two_pow]
  by_cases hk : k < size <;> simp [hk]

/-- `toSigned8` is the representative in −128..127 of its argument mod 256 (R22). -/
theorem BitOps.toSigned8_spec (x : Int) : -128 ≤ toSigned8 x ∧ toSigned8 x ≤ 127 ∧ toSigned8 x % 256 = x % 256 := by
  unfold toSigned8
  split <;> omega

/-! ### The obligations -/

/-- Settles O56: the channel's part is kept by each PictureEngine command. -/
theorem pictureCommandsLeaveTheChannel : Obligations.PictureCommandsLeaveTheChannel := fun _ _ _ h hi hr =>
  State.channelPart_eq_iff.mp (exec_channelPart h hi hr)

/-- Settles O57: the picture's part is kept by each SampleChannel command, and `nmi` is a function of it. -/
theorem channelCommandsLeaveThePicture : Obligations.ChannelCommandsLeaveThePicture := by
  intro i s t h hi
  obtain ⟨hv, hc, hs, hf, hl, hx, hy, hb, ho, hp, he⟩ := State.picturePart_eq_iff.mp (exec_picturePart h hi)
  have hn : t.nmi = s.nmi :=
    State.nmi_congr (hv .ppustatus nofun nofun nofun) (hv .ppuctrl nofun nofun nofun)
  exact ⟨hv, hc, hs, hf, hl, hx, hy, hb, ho, hp, he, hn⟩

/-- Settles O60: the field operations bit by bit, and the signed byte by its range and congruence. -/
theorem bitPrimitives : Obligations.BitPrimitives :=
  ⟨BitOps.getBits_setBits, BitOps.testBit_getBits, BitOps.testBit_setBits, BitOps.toSigned8_spec⟩

end Sys2Proof.Machine

/-! PROOFS. The state of the block (10_state.md): what each command may change (registers, position, OAM, frame
buffer, history), the invariant of the reachable states kept by every step, and the field layouts. -/

namespace Sys2Proof.Machine

open Host (Outcome)

/-! ### Commands as updates of the state -/

/-- PPUSTATUS after the position events of STEP (R251, R252). -/
def State.statusAfterEvents (s : State) : Byte :=
  if s.scanline = 241 ∧ s.cycle = 1 then s.regs.ppustatus ||| 0x80
  else if s.scanline = -1 ∧ s.cycle = 1 then s.regs.ppustatus &&& 0x1F
  else s.regs.ppustatus

/-- Part 1 of STEP writes PPUSTATUS only: its two events stand at different positions. -/
theorem positionEvents_eq (s : State) :
    preRenderEvent (vblankEvent s) = { s with regs := s.regs.put .ppustatus s.statusAfterEvents } := by
  rw [vblankEvent_eq, preRenderEvent_eq]
  by_cases hv : s.scanline = 241 ∧ s.cycle = 1 <;> simp [hv, State.statusAfterEvents, Regs.put]

/-- Part 2 of STEP as one update. -/
theorem counterAdvance_eq (s : State) :
    counterAdvance s =
      { s with
        cycle := if s.cycle = 340 then 0 else s.cycle + 1
        scanline :=
          if s.cycle = 340 then (if s.scanline = 260 then -1 else s.scanline + 1) else s.scanline
        frame := if s.cycle = 340 ∧ s.scanline = 260 then s.frame + 1 else s.frame
        history :=
          if s.cycle = 340 ∧ s.scanline = 260 then s.history ++ [.frame (s.frame + 1) s.frameBuffer]
          else s.history } := by
  by_cases hc : s.cycle = 340
  · by_cases hs : s.scanline = 260
    · rw [counterAdvance_frame hc hs]; simp [hc, hs]
    · rw [counterAdvance_scanline hc hs]; simp [hc, hs]
  · rw [counterAdvance_cycle hc]; simp [hc]

/-- STEP as one update (R250). -/
theorem exec_step (s : State) :
    exec .step s = .next
      { s with
        regs := s.regs.put .ppustatus s.statusAfterEvents
        cycle := if s.cycle = 340 then 0 else s.cycle + 1
        scanline :=
          if s.cycle = 340 then (if s.scanline = 260 then -1 else s.scanline + 1) else s.scanline
        frame := if s.cycle = 340 ∧ s.scanline = 260 then s.frame + 1 else s.frame
        history :=
          if s.cycle = 340 ∧ s.scanline = 260 then s.history ++ [.frame (s.frame + 1) s.frameBuffer]
          else s.history
        result := .nothing } := by
  rw [exec, execStep, positionEvents_eq, counterAdvance_eq]; rfl

/-- PLOT as one update: it writes its entry with the row in range, and only faults with the row out of range
(R270, R453). -/
theorem exec_plot (x y : Byte) (c : Pixel) (s : State) :
    exec (.plot x y c) s = .next
      { s with
        frameBuffer := if y.toNat < 240 then Memory.write s.frameBuffer (pixelIndex x y) c else s.frameBuffer
        fault := if y.toNat < 240 then s.fault else some (.plotOutOfRange (encode (.plot x y c)) x y)
        result := if y.toNat < 240 then .nothing else s.result } := by
  by_cases hy : y.toNat < 240
  · simp only [exec, execPlot, if_pos hy, if_neg (Nat.not_le_of_lt hy)]; rfl
  · simp only [exec, execPlot, if_neg hy, if_pos (Nat.le_of_not_lt hy)]; rfl

/-- RD.STATUS as one update (R303). -/
theorem exec_rdStatus (s : State) :
    exec .rdStatus s = .next
      { s with
        regs := s.regs.put .ppustatus (s.regs.ppustatus &&& 0x7F)
        latch := { s.latch with pendingHighByte := true }
        result := .u8 s.regs.ppustatus } := by
  have hm := BitOps.mask_byte s.regs.ppustatus 0x7F
  simp only [exec, execRdStatus, State.setValue, State.value, Regs.get]
  rw [← hm]; rfl

/-- WR.OAMDATA as one update (R325). -/
theorem exec_wrOamdata (d : Byte) (s : State) :
    exec (.wrOamdata d) s = .next
      { s with
        regs := (s.regs.put .oamdata d).put .oamaddr (s.regs.oamaddr + 1)
        oam := Memory.write s.oam s.regs.oamaddr.toNat d
        result := .nothing } := by
  rw [← BitOps.store_succ, exec, execWrOamdata, State.setValue_byte]; rfl

/-- WR.SCROLL as one update (R326). -/
theorem exec_wrScroll (d : Byte) (s : State) :
    exec (.wrScroll d) s = .next
      { s with
        regs := s.regs.put .ppuscroll d
        scrollX := if s.latch.pendingHighByte then d else s.scrollX
        scrollY := if s.latch.pendingHighByte then s.scrollY else d
        latch := { s.latch with pendingHighByte := !s.latch.pendingHighByte }
        result := .nothing } := by
  simp only [exec, execWrScroll, State.setValue_byte]
  cases hp : s.latch.pendingHighByte <;> simp [State.flipToggle, State.respond, hp]

/-- RESET as one update: the power-on state, but for what is not the block's to clear (R500). -/
theorem exec_reset (s : State) :
    exec .reset s = .next
      { State.reset with
        history := s.history
        fault := s.fault
        commands := s.commands
        answers := s.answers
        draws := s.draws
        params := s.params } := rfl

/-! ### Operations that write no register and only append to the history -/

/-- The history of `t` is that of `s` with port events appended, each naming an address of its port (R102,
R165, R166). -/
def State.Logs (s t : State) : Prop := ∃ es, t.history = s.history ++ es ∧ ∀ e ∈ es, e.wf = true

theorem State.Logs.of_eq {s t : State} (h : t.history = s.history) : s.Logs t :=
  ⟨[], by rw [h, List.append_nil], nofun⟩

theorem State.Logs.trans {s t u : State} (h : s.Logs t) (k : t.Logs u) : s.Logs u := by
  obtain ⟨es, he, hw⟩ := h
  obtain ⟨fs, ke, kw⟩ := k
  exact ⟨es ++ fs, by rw [ke, he, List.append_assoc], fun e hm => (List.mem_append.mp hm).elim (hw e) (kw e)⟩

/-- `t` has the registers of `s` and a history that extends that of `s`. -/
structure State.Extends (s t : State) : Prop where
  regs : t.regs = s.regs
  logs : s.Logs t

theorem State.Extends.of_eq {s t : State} (hr : t.regs = s.regs) (hh : t.history = s.history) : s.Extends t :=
  ⟨hr, .of_eq hh⟩

theorem State.Extends.trans {s t u : State} (h : s.Extends t) (k : t.Extends u) : s.Extends u :=
  ⟨k.regs.trans h.regs, h.logs.trans k.logs⟩

theorem State.Extends.value {s t : State} (h : s.Extends t) (r : RegName) : t.value r = s.value r := by
  rw [State.value, State.value, h.regs]

theorem State.extends_ppuRead (s : State) (a : Addr) : s.Extends (s.ppuRead a) := by
  by_cases ha : a.toNat < 0x4000
  · rw [(s.ppuRead_mapped ha).1]
    exact ⟨rfl, _, rfl, List.all_eq_true.mp (readEventsAt_wf a _)⟩
  · rw [(s.ppuRead_unmapped (by omega)).1]
    exact .of_eq rfl rfl

theorem State.extends_ppuWrite (s : State) (a : Addr) (v : Byte) : s.Extends (s.ppuWrite a v) := by
  rw [State.ppuWrite_eq]
  exact ⟨rfl, _, rfl, List.all_eq_true.mp (writeEventsAt_wf a v)⟩

theorem extends_oamCopy (p : Byte) (n i : Nat) (s : State) : s.Extends (oamCopy p n i s) := by
  obtain ⟨vs, m, -, he, -⟩ := oamCopy_eq p n i s
  rw [he]
  refine ⟨rfl, _, rfl, fun e hm => ?_⟩
  obtain ⟨j, hj, rfl⟩ := List.mem_mapIdx.mp hm
  rfl

theorem extends_applyStart (s : State) : s.Extends (applyStart s) := by
  cases hp : s.startPending with
  | true => rw [applyStart_pending hp]; exact .of_eq rfl rfl
  | false => rw [applyStart_none hp]; exact .of_eq rfl rfl

/-- What parts 4 and 5 of DUPD decide between: bits are left in the byte held, the sample is at its end, or
the next byte is fetched (R420). -/
theorem State.bitDecision_split (s : State) :
    (∃ b, s.buffer = some b ∧ s.cursorBit ≠ 8) ∨
    ((s.buffer = none ∨ s.cursorBit = 8) ∧ s.sampleLength ≤ s.cursorByte + 1) ∨
    ((s.buffer = none ∨ s.cursorBit = 8) ∧ s.cursorByte + 1 < s.sampleLength) := by
  by_cases hn : s.buffer = none ∨ s.cursorBit = 8
  · exact .inr ((le_or_gt _ _).imp (⟨hn, ·⟩) (⟨hn, ·⟩))
  · obtain ⟨hheld, h8⟩ := not_or.mp hn
    obtain ⟨b, hb⟩ := Option.ne_none_iff_exists'.mp hheld
    exact .inl ⟨b, hb, h8⟩

theorem extends_bitDecision (s : State) : s.Extends (bitDecision s) := by
  obtain ⟨b, hb, h8⟩ | ⟨hn, hc⟩ | ⟨hn, hc⟩ := s.bitDecision_split
  · rw [bitDecision_play hb h8]; exact .of_eq rfl rfl
  · rw [bitDecision_complete hn hc]; exact .of_eq rfl rfl
  · obtain ⟨v, he, -⟩ := bitDecision_fetch hn hc
    rw [he]
    exact ⟨rfl, _, rfl, by simp [Event.wf]⟩

theorem extends_channelTick (s : State) : s.Extends (channelTick s) := by
  cases ha : s.isActive with
  | false => rw [channelTick_idle ha]; exact .of_eq rfl rfl
  | true =>
    by_cases hd : s.dividerCount + 1 < s.dividerPeriod
    · rw [channelTick_count ha hd]; exact .of_eq rfl rfl
    · rw [channelTick_elapsed ha (by omega)]
      have hk := extends_bitDecision { s with dividerCount := 0 }
      exact ⟨hk.regs, hk.logs⟩

/-! ### Registers (R61 to R72, R173) -/

/-- A register other than the one put is unchanged. -/
theorem Regs.get_put_ne (g : Regs) {r q : RegName} (v : Byte) (h : q ≠ r) : (g.put r v).get q = g.get q := by
  rw [Regs.get_put, if_neg h]

/-- A register a command may not write is none of those it may write. -/
theorem ne_of_mayWrite {i : Instr} {r q : RegName} (hr : mayWrite i r = false) (hq : mayWrite i q = true) :
    r ≠ q := by
  rintro rfl
  exact absurd hq (by simp [hr])

/-- A command keeps every register but those the register map names for it. -/
theorem exec_value {i : Instr} {s t : State} {r : RegName} (h : exec i s = .next t) (hw : mayWrite i r = false) :
    t.value r = s.value r := by
  cases i with
  | reset => cases hw
  | wrCtrl | wrMask | wrOamaddr | wrAddr | wrDmcCtrl | wrDmcAddr | wrDmcLen =>
    cases h; exact Regs.get_put_ne _ _ (ne_of_mayWrite hw rfl)
  | step => rw [exec_step] at h; cases h; exact Regs.get_put_ne _ _ (ne_of_mayWrite hw rfl)
  | rdStatus => rw [exec_rdStatus] at h; cases h; exact Regs.get_put_ne _ _ (ne_of_mayWrite hw rfl)
  | wrScroll => rw [exec_wrScroll] at h; cases h; exact Regs.get_put_ne _ _ (ne_of_mayWrite hw rfl)
  | wrOamdata =>
    rw [exec_wrOamdata] at h; cases h
    exact (Regs.get_put_ne _ _ (ne_of_mayWrite hw rfl)).trans (Regs.get_put_ne _ _ (ne_of_mayWrite hw rfl))
  | wrData d =>
    cases h
    exact ((State.extends_ppuWrite _ _ _).value r).trans (Regs.get_put_ne _ _ (ne_of_mayWrite hw rfl))
  | wrOamdma d =>
    simp only [exec, execWrOamdma, Outcome.next.injEq] at h
    rw [← h, State.value, State.respond_regs, (extends_oamCopy d 256 0 _).regs]
    exact Regs.get_put_ne _ _ (ne_of_mayWrite hw rfl)
  | rdData => cases h; exact (s.extends_ppuRead _).value r
  | tile => cases h; exact ((s.extends_ppuRead _).trans (State.extends_ppuRead _ _)).value r
  | dupd => cases h; exact ((extends_applyStart s).trans (extends_channelTick _)).value r
  | plot => rw [exec_plot] at h; cases h; rfl
  | _ => cases h; rfl

/-! ### History (R102, R175) -/

/-- A command other than STEP appends only port events. -/
theorem exec_logs {i : Instr} {s t : State} (h : exec i s = .next t) (hi : i ≠ .step) : s.Logs t := by
  cases i with
  | step => exact absurd rfl hi
  | rdData => cases h; exact (s.extends_ppuRead _).logs
  | tile => cases h; exact ((s.extends_ppuRead _).trans (State.extends_ppuRead _ _)).logs
  | wrData d => cases h; exact ((s.setValue .ppudata d.toNat).extends_ppuWrite _ _).logs
  | wrOamdma d =>
    simp only [exec, execWrOamdma, Outcome.next.injEq] at h
    rw [← h, State.Logs, State.respond_history]
    exact (extends_oamCopy d 256 0 (s.setValue .oamdma d.toNat)).logs
  | dupd => cases h; exact ((extends_applyStart s).trans (extends_channelTick _)).logs
  | wrScroll => rw [exec_wrScroll] at h; cases h; exact .of_eq rfl
  | reset => rw [exec_reset] at h; cases h; exact .of_eq rfl
  | plot => rw [exec_plot] at h; cases h; exact .of_eq rfl
  | _ => cases h; exact .of_eq rfl

/-- A command appends port events, or the Frame event of the boundary it passes (R168). -/
theorem exec_history {i : Instr} {s t : State} (h : exec i s = .next t) :
    s.Logs t ∨ t.history = s.history ++ [.frame (s.frame + 1) s.frameBuffer] := by
  by_cases hi : i = .step
  · subst hi
    rw [exec_step] at h; cases h
    by_cases hb : s.cycle = 340 ∧ s.scanline = 260
    · exact .inr (if_pos hb)
    · exact .inl (.of_eq (if_neg hb))
  · exact .inl (exec_logs h hi)

/-! ### Position and memories (R80 to R82, R86, R87) -/

/-- The position, OAM and the frame buffer: what only five commands change. -/
structure DisplayPart where
  cycle : Nat
  scanline : Int
  frame : Nat
  oam : List Host.Cell
  frameBuffer : List (Nat × Pixel)

/-- The display part of the PictureEngine's part. -/
def PicturePart.display (p : PicturePart) : DisplayPart := ⟨p.cycle, p.scanline, p.frame, p.oam, p.frameBuffer⟩

/-- The display part of a state. -/
def State.displayPart (s : State) : DisplayPart := s.picturePart.display

/-- Two states have the same display part exactly when each of its items is the same. -/
theorem State.displayPart_eq_iff {s t : State} :
    t.displayPart = s.displayPart ↔
      (t.cycle = s.cycle ∧ t.scanline = s.scanline ∧ t.frame = s.frame) ∧ t.oam = s.oam ∧
      t.frameBuffer = s.frameBuffer := by
  simp only [State.displayPart, PicturePart.display, State.picturePart, DisplayPart.mk.injEq, and_assoc]

/-- The commands that change the display part. -/
def changesDisplay : Instr → Bool
  | .step | .plot _ _ _ | .wrOamdata _ | .wrOamdma _ | .reset => true
  | _ => false

@[simp] theorem State.displayPart_respond (s : State) (r : Result) : (s.respond r).displayPart = s.displayPart := rfl

@[simp] theorem State.displayPart_ppuRead (s : State) (a : Addr) : (s.ppuRead a).displayPart = s.displayPart := by
  by_cases ha : a.toNat < 0x4000
  · rw [(s.ppuRead_mapped ha).1]; rfl
  · rw [(s.ppuRead_unmapped (by omega)).1]

@[simp] theorem State.displayPart_ppuWrite (s : State) (a : Addr) (v : Byte) :
    (s.ppuWrite a v).displayPart = s.displayPart := by
  rw [State.ppuWrite_eq]; rfl

/-- Every other command keeps the display part. -/
theorem exec_displayPart {i : Instr} {s t : State} (h : exec i s = .next t) (hi : changesDisplay i = false) :
    t.displayPart = s.displayPart := by
  cases i with
  | step | plot | wrOamdata | wrOamdma | reset => cases hi
  | dupd => exact congrArg PicturePart.display (exec_picturePart h rfl)
  | rdData => cases h; exact s.displayPart_ppuRead _
  | tile => cases h; simp
  | wrData d => cases h; exact (s.setValue .ppudata d.toNat).displayPart_ppuWrite _ _
  | wrScroll => rw [exec_wrScroll] at h; cases h; rfl
  | _ => cases h; rfl

/-- WR.OAMDMA keeps the position and the frame buffer (R329). -/
theorem exec_wrOamdma_frame {d : Byte} {s t : State} (h : exec (.wrOamdma d) s = .next t) :
    (t.cycle = s.cycle ∧ t.scanline = s.scanline ∧ t.frame = s.frame) ∧ t.frameBuffer = s.frameBuffer := by
  simp only [exec, execWrOamdma, Outcome.next.injEq] at h
  obtain ⟨_, _, _, he, _⟩ := oamCopy_eq d 256 0 (s.setValue .oamdma d.toNat)
  rw [← h, he]
  exact ⟨⟨rfl, rfl, rfl⟩, rfl⟩

/-- Every command but STEP and RESET keeps the position (R51, R80 to R82). -/
theorem exec_position {i : Instr} {s t : State} (h : exec i s = .next t) (hs : i ≠ .step) (hr : i ≠ .reset) :
    t.cycle = s.cycle ∧ t.scanline = s.scanline ∧ t.frame = s.frame := by
  cases i with
  | step => exact absurd rfl hs
  | reset => exact absurd rfl hr
  | plot => rw [exec_plot] at h; cases h; exact ⟨rfl, rfl, rfl⟩
  | wrOamdata => rw [exec_wrOamdata] at h; cases h; exact ⟨rfl, rfl, rfl⟩
  | wrOamdma => exact (exec_wrOamdma_frame h).1
  | _ => exact (State.displayPart_eq_iff.mp (exec_displayPart h rfl)).1

/-- Every command but RESET and PLOT in range keeps the frame buffer (R87, R255, R256). -/
theorem exec_frameBuffer {i : Instr} {s t : State} (h : exec i s = .next t) :
    t.frameBuffer = s.frameBuffer ∨ i = .reset ∨ ∃ x y c, i = .plot x y c ∧ y.toNat < 240 := by
  cases i with
  | reset => exact .inr (.inl rfl)
  | plot x y c =>
    by_cases hy : y.toNat < 240
    · exact .inr (.inr ⟨x, y, c, rfl, hy⟩)
    · rw [exec_plot] at h; cases h; exact .inl (if_neg hy)
  | step => rw [exec_step] at h; cases h; exact .inl rfl
  | wrOamdata => rw [exec_wrOamdata] at h; cases h; exact .inl rfl
  | wrOamdma => exact .inl (exec_wrOamdma_frame h).2
  | _ => exact .inl (State.displayPart_eq_iff.mp (exec_displayPart h rfl)).2.2

/-! ### The invariant of the position, the status and the memories -/

theorem State.PositionOk.congr {s t : State} (h : s.PositionOk) (hc : t.cycle = s.cycle)
    (hs : t.scanline = s.scanline) : t.PositionOk :=
  ⟨hc ▸ h.cycle, hs ▸ h.scanlineLow, hs ▸ h.scanlineHigh⟩

/-- The power-on position is in range. -/
theorem positionOk_reset : State.reset.PositionOk := ⟨by decide, by decide, by decide⟩

/-- STEP wraps both counters at the ends of their ranges (R80, R81). -/
theorem exec_positionOk {i : Instr} {s t : State} (h : exec i s = .next t) (hp : s.PositionOk) : t.PositionOk := by
  by_cases hs : i = .step
  · subst hs
    rw [exec_step] at h; cases h
    obtain ⟨hc, hlow, hhigh⟩ := hp
    constructor <;> dsimp only <;> split_ifs <;> omega
  · by_cases hr : i = .reset
    · subst hr
      rw [exec_reset] at h; cases h
      exact positionOk_reset.congr rfl rfl
    · obtain ⟨hc, hl, -⟩ := exec_position h hs hr
      exact hp.congr hc hl

/-- The position events of STEP write bit 7 only, or clear bits (R251, R252). -/
theorem State.statusAfterEvents_low {s : State} (h : s.regs.ppustatus &&& 0x7F = 0) :
    s.statusAfterEvents &&& 0x7F = 0 := by
  have bits : ∀ b : Byte, b &&& 0x7F = 0 → (b ||| 0x80) &&& 0x7F = 0 ∧ (b &&& 0x1F) &&& 0x7F = 0 := by decide
  unfold State.statusAfterEvents
  split_ifs
  · exact (bits _ h).1
  · exact (bits _ h).2
  · exact h

/-- PPUSTATUS is 0 at power-on (R110). -/
theorem status_reset : State.reset.regs.ppustatus &&& 0x7F = 0 := by decide

/-- No command sets a bit of PPUSTATUS but bit 7 (R63). -/
theorem exec_status {i : Instr} {s t : State} (h : exec i s = .next t) (hs : s.regs.ppustatus &&& 0x7F = 0) :
    t.regs.ppustatus &&& 0x7F = 0 := by
  cases i with
  | step => rw [exec_step] at h; cases h; exact State.statusAfterEvents_low hs
  | rdStatus =>
    rw [exec_rdStatus] at h; cases h
    exact (congrArg (· &&& 0x7F) hs).trans (BitVec.zero_and ..)
  | reset => rw [exec_reset] at h; cases h; exact status_reset
  | _ =>
    have hv : t.regs.ppustatus = s.regs.ppustatus := exec_value (r := .ppustatus) h rfl
    rw [hv]; exact hs

/-- The OAM-DMA copy keeps the form and the size of OAM (R86, R329). -/
theorem oamCopy_form (p : Byte) (n i : Nat) {s : State} (h : Memory.wf s.oam = true)
    (k : Memory.below 256 s.oam = true) :
    Memory.wf (oamCopy p n i s).oam = true ∧ Memory.below 256 (oamCopy p n i s).oam = true := by
  induction n generalizing i s with
  | zero => exact ⟨h, k⟩
  | succ n ih =>
    have hread : (s.portRead .prg (dmaSource p i)).oam = s.oam := by rw [State.portRead_eq]
    obtain ⟨h', k'⟩ := State.oamWrite_form (s.portRead .prg (dmaSource p i))
      (i := dmaDest (s.value .oamaddr) i) (s.answer .prg (dmaSource p i)) (hread ▸ h) (hread ▸ k)
      (Nat.mod_lt _ (by decide))
    exact ih (i + 1) h' k'

/-- Every OAM write goes through `Memory.write` at an index below 256 (R86). -/
theorem exec_oamForm {i : Instr} {s t : State} (h : exec i s = .next t) (hf : Memory.wf s.oam = true)
    (hb : Memory.below 256 s.oam = true) : Memory.wf t.oam = true ∧ Memory.below 256 t.oam = true := by
  cases i with
  | wrOamdata d =>
    rw [exec_wrOamdata] at h; cases h
    exact s.oamWrite_form d hf hb s.regs.oamaddr.isLt
  | wrOamdma d =>
    simp only [exec, execWrOamdma, Outcome.next.injEq] at h
    rw [← h, State.respond_oam]
    exact oamCopy_form d 256 0 (s := s.setValue .oamdma d.toNat) hf hb
  | reset => rw [exec_reset] at h; cases h; exact ⟨rfl, rfl⟩
  | step => rw [exec_step] at h; cases h; exact ⟨hf, hb⟩
  | plot => rw [exec_plot] at h; cases h; exact ⟨hf, hb⟩
  | _ => rw [(State.displayPart_eq_iff.mp (exec_displayPart h rfl)).2.1]; exact ⟨hf, hb⟩

/-- The only write of the frame buffer is that of a PLOT in range (R87). -/
theorem exec_frameForm {i : Instr} {s t : State} (h : exec i s = .next t) (hf : Memory.wf s.frameBuffer = true)
    (hb : Memory.below 61440 s.frameBuffer = true) :
    Memory.wf t.frameBuffer = true ∧ Memory.below 61440 t.frameBuffer = true := by
  obtain hk | rfl | ⟨x, y, c, rfl, hy⟩ := exec_frameBuffer h
  · rw [hk]; exact ⟨hf, hb⟩
  · rw [exec_reset] at h; cases h; exact ⟨rfl, rfl⟩
  · rw [exec_plot, if_pos hy] at h; cases h
    exact s.pixelWrite_form c hf hb (pixelIndex_lt hy)

/-! ### The invariant of the SampleChannel (R92 to R97) -/

/-- The channel's invariant speaks of its own part of the state only. -/
theorem State.ChannelOk.congr {s t : State} (h : s.ChannelOk) (he : t.channelPart = s.channelPart) : t.ChannelOk := by
  obtain ⟨-, -, -, ha, -, hp, hd, hc, hb, hsa, hl, hbuf, ho⟩ := State.channelPart_eq_iff.mp he
  constructor
  all_goals simp only [ha, hp, hd, hc, hb, hsa, hl, hbuf, ho]
  exacts [h.cursorLow, h.cursorHigh, h.cursorBit, h.length, h.period, h.divider, h.dividerIdle, h.activeAddress,
    h.activeLength, h.playing, h.idle, h.output]

/-- An active channel whose divider has just elapsed: what part 4 of DUPD finds. A start that has just been
applied is such a state too, though it has not yet played a bit. -/
structure State.BitDue (s : State) : Prop where
  active : s.isActive = true
  divider : s.dividerCount = 0
  periodPos : 0 < s.dividerPeriod
  period : s.dividerPeriod ≤ 65535
  cursorLow : -1 ≤ s.cursorByte
  cursorHigh : s.cursorByte ≤ s.sampleLength
  cursorBit : s.cursorBit ≤ 8
  address : ∃ k, k ≤ 255 ∧ s.sampleAddress.toNat = 0xC000 + 64 * k
  length : ∃ k, k ≤ 255 ∧ s.sampleLength = 16 * k + 1
  output : |s.output| ≤ 8 * (min s.cursorByte (s.sampleLength - 1) + 1) + s.cursorBit

/-- The divider of an active channel elapses. -/
theorem State.ChannelOk.bitDue {s : State} (h : s.ChannelOk) (ha : s.isActive = true) :
    State.BitDue { s with dividerCount := 0 } where
  active := ha
  divider := rfl
  periodPos := Nat.zero_lt_of_lt (h.divider ha)
  period := h.period
  cursorLow := h.cursorLow
  cursorHigh := h.cursorHigh
  cursorBit := h.cursorBit
  address := h.activeAddress ha
  length := h.activeLength ha
  output := h.output

/-- A start is applied, in whatever state it was armed (R416). -/
theorem bitDue_applyStart {s : State} (hp : s.startPending = true) :
    State.BitDue { applyStart s with dividerCount := 0 } := by
  rw [applyStart_pending hp]
  have haddr := (s.value .dmcAddr).isLt
  have hlen := (s.value .dmcLen).isLt
  exact
    { active := rfl
      divider := rfl
      periodPos := s.ratePeriod_range.1
      period := s.ratePeriod_range.2
      cursorLow := le_refl _
      cursorHigh := by dsimp only; omega
      cursorBit := Nat.zero_le _
      address := ⟨(s.value .dmcAddr).toNat, by omega, by simp only [startAddress, BitVec.toNat_ofNat]; omega⟩
      length := ⟨(s.value .dmcLen).toNat, by omega, by simp only [startLength]; omega⟩
      output := by simp only [startLength, abs_zero]; omega }

/-- One bit moves the accumulator by 1. -/
theorem abs_bitStep_le {o n : Int} (h : |o| ≤ n) (b : Bool) : |if b = true then o + 1 else o - 1| ≤ n + 1 := by
  obtain ⟨hlow, hhigh⟩ := abs_le.mp h
  cases b <;> simp only [if_true, if_false, Bool.false_eq_true] <;> exact abs_le.mpr ⟨by omega, by omega⟩

/-- The sample of an active channel has at most 4081 bytes (R95). -/
theorem State.BitDue.length_le {s : State} (h : s.BitDue) : s.sampleLength ≤ 4081 := by
  obtain ⟨k, hk, he⟩ := h.length
  omega

/-- Such a state is one between operations once a bit of a byte was played. -/
theorem State.BitDue.played {s : State} (h : s.BitDue) (hb : s.buffer.isSome = true) (h1 : 1 ≤ s.cursorBit) :
    s.ChannelOk where
  cursorLow := h.cursorLow
  cursorHigh := h.cursorHigh
  cursorBit := h.cursorBit
  length := h.length_le
  period := h.period
  divider := fun _ => h.divider.trans_lt h.periodPos
  dividerIdle := fun _ => h.divider
  activeAddress := fun _ => h.address
  activeLength := fun _ => h.length
  playing := fun _ => ⟨hb, h1⟩
  idle := fun hi => absurd (h.active.symm.trans hi) (by decide)
  output := h.output

/-- Parts 4 and 5 of DUPD reach a state between operations (R420 to R425). -/
theorem State.BitDue.channelOk {s : State} (h : s.BitDue) : (bitDecision s).ChannelOk := by
  have hlow := h.cursorLow
  have hbit := h.cursorBit
  have hmax := h.length_le
  obtain ⟨b, hb, h8⟩ | ⟨hn, hc⟩ | ⟨hn, hc⟩ := s.bitDecision_split
  · rw [bitDecision_play hb h8]
    have hout := abs_bitStep_le h.output (b.getLsbD s.cursorBit)
    refine State.BitDue.played { h with cursorBit := ?_, output := ?_ } (by rw [hb]; rfl) (Nat.le_add_left ..)
    · dsimp only; omega
    · dsimp only; omega
  · rw [bitDecision_complete hn hc]
    exact
      { cursorLow := by dsimp only; omega
        cursorHigh := le_refl _
        cursorBit := Nat.zero_le _
        length := hmax
        period := h.period
        divider := nofun
        dividerIdle := fun _ => h.divider
        activeAddress := nofun
        activeLength := nofun
        playing := nofun
        idle := fun _ => ⟨rfl, rfl⟩
        output := by simp only [abs_zero]; omega }
  · obtain ⟨v, he, -⟩ := bitDecision_fetch hn hc
    rw [he]
    have hout := abs_bitStep_le h.output (v.getLsbD 0)
    refine State.BitDue.played
      { h with cursorLow := ?_, cursorHigh := ?_, cursorBit := ?_, output := ?_ } rfl (le_refl _)
    all_goals dsimp only; omega

/-- A tick of a channel between operations (R420, R422). -/
theorem State.ChannelOk.channelTick {s : State} (h : s.ChannelOk) : (channelTick s).ChannelOk := by
  cases ha : s.isActive with
  | false => rw [channelTick_idle ha]; exact h
  | true =>
    by_cases hd : s.dividerCount + 1 < s.dividerPeriod
    · rw [channelTick_count ha hd]
      exact { h with divider := fun _ => hd, dividerIdle := fun hi => absurd (ha.symm.trans hi) (by decide) }
    · rw [channelTick_elapsed ha (by omega)]
      exact (h.bitDue ha).channelOk

/-- The tick that applies a start plays a bit at once, since the start lets the divider elapse (R416). -/
theorem channelTick_applyStart {s : State} (hp : s.startPending = true) :
    channelTick (applyStart s) = bitDecision { applyStart s with dividerCount := 0 } := by
  have hr := s.ratePeriod_range.1
  rw [applyStart_pending hp]
  exact channelTick_elapsed rfl (by dsimp only; omega)

/-- The power-on channel (R110). -/
theorem channelOk_reset : State.reset.ChannelOk where
  cursorLow := by decide
  cursorHigh := by decide
  cursorBit := by decide
  length := by decide
  period := by decide
  divider := nofun
  dividerIdle := fun _ => rfl
  activeAddress := nofun
  activeLength := nofun
  playing := nofun
  idle := fun _ => ⟨rfl, rfl⟩
  output := by decide

/-- DUPD and DSTOP move the channel between states of its invariant, and nothing but RESET moves it besides. -/
theorem exec_channelOk {i : Instr} {s t : State} (h : exec i s = .next t) (hc : s.ChannelOk) : t.ChannelOk := by
  cases i with
  | reset => rw [exec_reset] at h; cases h; exact channelOk_reset.congr rfl
  | dupd =>
    cases h
    refine State.ChannelOk.congr ?_ (State.channelPart_respond _ _)
    cases hp : s.startPending with
    | true => rw [channelTick_applyStart hp]; exact (bitDue_applyStart hp).channelOk
    | false => rw [applyStart_none hp]; exact hc.channelTick
  | dstop =>
    cases h
    have hlow := hc.cursorLow
    have hhigh := hc.cursorHigh
    have hout := hc.output
    exact
      { hc with
        cursorLow := hlow.trans hhigh
        cursorHigh := le_refl _
        output := by simp only [State.respond]; omega }
  | dstart | drem | rdDmcCtrl | rdDmcAddr | rdDmcLen | wrDmcCtrl | wrDmcAddr | wrDmcLen =>
    cases h; exact { hc with }
  | _ => exact hc.congr (exec_channelPart h rfl nofun)

/-! ### The invariant -/

/-- The Frame event of a boundary is well formed: it counts from 1 and carries a frame buffer (R168). -/
theorem frameEvent_wf {s : State} (hf : Memory.wf s.frameBuffer = true)
    (hb : Memory.below 61440 s.frameBuffer = true) : (Event.frame (s.frame + 1) s.frameBuffer).wf = true := by
  simp [Event.wf, hf, hb]

theorem State.Logs.all_wf {s t : State} (h : s.Logs t) (hs : s.history.all Event.wf = true) :
    t.history.all Event.wf = true := by
  obtain ⟨es, he, hw⟩ := h
  rw [he, List.all_append, hs, List.all_eq_true.mpr hw, Bool.and_true]

/-- Every command keeps the invariant. -/
theorem exec_inv {i : Instr} {s t : State} (h : exec i s = .next t) (hi : s.Inv) : t.Inv where
  position := exec_positionOk h hi.position
  status := exec_status h hi.status
  oamForm := (exec_oamForm h hi.oamForm hi.oamSize).1
  oamSize := (exec_oamForm h hi.oamForm hi.oamSize).2
  frameForm := (exec_frameForm h hi.frameForm hi.frameSize).1
  frameSize := (exec_frameForm h hi.frameForm hi.frameSize).2
  channel := exec_channelOk h hi.channel
  history := by
    obtain hl | hf := exec_history h
    · exact hl.all_wf hi.history
    · rw [hf, List.all_append, hi.history]
      simp [frameEvent_wf hi.frameForm hi.frameSize]

/-- The invariant does not speak of the driver's commands or of the fault. -/
theorem State.Inv.accept {s : State} (h : s.Inv) (cs : List Command) (f : Option FaultRecord) :
    State.Inv { s with commands := cs, fault := f } where
  position := h.position.congr rfl rfl
  status := h.status
  oamForm := h.oamForm
  oamSize := h.oamSize
  frameForm := h.frameForm
  frameSize := h.frameSize
  channel := h.channel.congr rfl
  history := h.history

/-- Every step keeps the invariant. -/
theorem step_inv {s t : State} (h : step s = .next t) (hi : s.Inv) : t.Inv := by
  obtain ⟨-, ⟨-, rfl⟩ | ⟨w, rest, i, -, -, he⟩ | ⟨w, rest, why, -, -, rfl⟩⟩ := step_next h
  · exact hi
  · exact exec_inv he (hi.accept rest s.fault)
  · exact hi.accept rest _

/-- The power-on state meets the invariant (R110). -/
theorem inv_reset : State.reset.Inv where
  position := positionOk_reset
  status := status_reset
  oamForm := Memory.wf_reset.1
  oamSize := rfl
  frameForm := Memory.wf_reset.2
  frameSize := rfl
  channel := channelOk_reset
  history := rfl

/-! ### The layout check (R57, R452) -/

/-- The check of one register finds nothing exactly when each field is valid and no two overlap. -/
theorem firstOverlap_eq_none_iff (fs : List Field) :
    firstOverlap fs = none ↔
      (∀ f ∈ fs, f.valid = true) ∧ fs.Pairwise fun f g => ¬ f.overlaps g = true := by
  induction fs with
  | nil => simp [firstOverlap]
  | cons f rest ih =>
    rw [firstOverlap, List.forall_mem_cons, List.pairwise_cons]
    by_cases hv : f.valid = true
    · rw [if_pos hv]
      cases hg : rest.find? (f.overlaps ·) with
      | some g =>
        have hmem := List.mem_of_find?_eq_some hg
        have hover := List.find?_some hg
        simp only [reduceCtorEq, false_iff]
        exact fun h => h.2.1 g hmem hover
      | none =>
        have hfree := List.find?_eq_none.mp hg
        simp only [ih]
        exact ⟨fun h => ⟨⟨hv, h.1⟩, hfree, h.2⟩, fun h => ⟨h.1.2, h.2.2⟩⟩
    · rw [if_neg hv]
      simp [hv]

/-- The check of the block finds nothing exactly when that of each register does. -/
theorem layoutError_eq_none_iff (l : List (RegName × List Field)) :
    layoutError l = none ↔ ∀ p ∈ l, firstOverlap p.2 = none := by
  induction l with
  | nil => simp [layoutError]
  | cons p rest ih =>
    obtain ⟨r, fs⟩ := p
    rw [layoutError, List.forall_mem_cons]
    cases ho : firstOverlap fs with
    | some e => simp
    | none => simpa using ih

/-- The spec's own layouts pass (R57). -/
theorem layoutCheck_eq_none : layoutCheck = none := by decide

/-- So the machine starts with no fault (R110). -/
theorem fault_reset : State.reset.fault = none := by rw [State.reset, layoutCheck_eq_none, Option.map_none]

/-! ### Fields (R53, R54) -/

/-- A declared field belongs to the register that declares it. -/
theorem Field.reg_of_mem {f : Field} {r : RegName} (h : f ∈ r.fields) : f.reg = r := by
  have declared : ∀ r : RegName, ∀ f ∈ r.fields, f.reg = r := by
    intro r; cases r <;> decide
  exact declared r f h

/-- What the layout check says of one register of the block. -/
theorem RegName.fields_checked (r : RegName) : firstOverlap r.fields = none := by
  have hr : r ∈ RegName.all := by cases r <;> decide
  exact (layoutError_eq_none_iff _).mp layoutCheck_eq_none (r, r.fields) (List.mem_map_of_mem hr)

/-- Every declared field is valid, since the layouts pass the check. -/
theorem Field.valid_of_mem {f : Field} {r : RegName} (h : f ∈ r.fields) : f.valid = true :=
  ((firstOverlap_eq_none_iff _).mp r.fields_checked).1 f h

/-- Sharing a bit is symmetric. -/
theorem Field.overlaps_comm (f g : Field) : f.overlaps g = g.overlaps f := by
  rw [Field.overlaps, Field.overlaps, max_comm, min_comm]

/-- No bit lies in two declared fields of one register, since the layouts pass the check. -/
theorem Field.disjoint_of_mem {f g : Field} {r : RegName} (hf : f ∈ r.fields) (hg : g ∈ r.fields) (hne : f ≠ g) :
    ¬ f.overlaps g = true := by
  have symm : Std.Symm fun f g : Field => ¬ f.overlaps g = true := ⟨fun f g h => by rwa [Field.overlaps_comm]⟩
  exact ((firstOverlap_eq_none_iff _).mp r.fields_checked).2.forall hf hg hne

/-- A field that ends by bit `w` reads the same after the value was reduced to `w` bits. -/
theorem BitOps.getBits_mod {start size w : Nat} (h : start + size ≤ w) (x : Nat) :
    getBits (x % 2 ^ w) start size = getBits x start size := by
  refine Nat.eq_of_testBit_eq fun k => ?_
  rw [testBit_getBits, testBit_getBits, Nat.testBit_mod_two_pow]
  by_cases hk : k < size
  · simp [show start + k < w by omega]
  · simp [hk]

/-- Writing one bit range leaves a disjoint one as it was (R24). -/
theorem BitOps.getBits_setBits_disjoint {a n b m : Nat}
    (h : ∀ k, a ≤ k → k < a + n → ¬ (b ≤ k ∧ k < b + m)) (x v : Nat) :
    getBits (setBits x b m v) a n = getBits x a n := by
  refine Nat.eq_of_testBit_eq fun k => ?_
  rw [testBit_getBits, testBit_getBits, testBit_setBits]
  by_cases hk : k < n
  · rw [if_neg (h (a + k) (by omega) (by omega))]
  · simp [hk]

/-- A field of the written register reads from the bits written (R53, R54). -/
theorem State.field_writeField {s : State} {f g : Field} (v : Nat) (hw : f.writable = true) (hr : g.reg = f.reg)
    (hg : g.valid = true) :
    (s.writeField f v).field g =
      BitOps.getBits (BitOps.setBits (s.value f.reg).toNat f.bitOffset f.bitWidth v) g.bitOffset g.bitWidth := by
  have h8 := ((Field.valid_iff g).mp hg).2
  rw [State.field, State.writeField, if_pos hw, hr, State.setValue_value, if_pos rfl, BitOps.toUnsigned8_natCast,
    BitVec.toNat_ofNat]
  exact (BitOps.getBits_mod h8 _).trans (BitOps.getBits_mod h8 _)

/-! ### The obligations -/

/-- Settles O48: each command keeps each part of the invariant, and the invariant does not speak of what the
block does beside running a command. -/
theorem stepKeepsTheInvariant : Obligations.StepKeepsTheInvariant := fun _ _ hi h => step_inv h hi

/-- Settles O50: a command appends port events or one Frame event, and a step that runs none appends nothing. -/
theorem historyOnlyGrows : Obligations.HistoryOnlyGrows := by
  intro s t h
  obtain ⟨-, ⟨-, rfl⟩ | ⟨w, rest, i, -, -, he⟩ | ⟨w, rest, why, -, -, rfl⟩⟩ := step_next h
  · exact ⟨[], (List.append_nil _).symm, nofun⟩
  · obtain ⟨es, hes, hw⟩ | hf := exec_history he
    · exact ⟨es, hes, fun e hm => .inr (hw e hm)⟩
    · exact ⟨_, hf, by simp [Event.isFrame]⟩
  · exact ⟨[], (List.append_nil _).symm, nofun⟩

/-- Settles O51, by cases on the command. -/
theorem registersChangeOnlyByTheirCommands : Obligations.RegistersChangeOnlyByTheirCommands := fun _ _ _ _ =>
  exec_value

/-- Settles O52, by cases on the command. -/
theorem frameBufferChangesOnlyByPlot : Obligations.FrameBufferChangesOnlyByPlot := fun _ _ _ h hne =>
  (exec_frameBuffer h).resolve_left hne

/-- Settles O53, by cases on the command. -/
theorem positionMovesOnlyByStep : Obligations.PositionMovesOnlyByStep := fun _ _ _ => exec_position

/-- Settles O58: the layouts pass the check, so a field's bits are its own and all lie in the byte. -/
theorem fieldWritesAreExact : Obligations.FieldWritesAreExact := by
  intro s f g v hf hg
  have hreg := Field.reg_of_mem hg
  refine ⟨fun hw => ?_, fun hw hne => ?_, fun hw => ?_⟩
  · rw [State.field_writeField v hw rfl (Field.valid_of_mem hf), BitOps.getBits_setBits]
  · have hd := Field.disjoint_of_mem hg hf hne
    rw [State.field_writeField v hw hreg (Field.valid_of_mem hg), State.field, hreg]
    refine BitOps.getBits_setBits_disjoint (fun k hlow hhigh hk => ?_) _ _
    exact hd ((Field.overlaps_iff _ _).mpr ⟨k, ⟨hlow, hhigh⟩, hk⟩)
  · rw [State.writeField, if_neg (by simp [hw])]

/-- Settles O59, by induction on the registers and on the fields of each. -/
theorem layoutCheckIsExact : Obligations.LayoutCheckIsExact := by
  refine ⟨fun l => ?_, layoutCheck_eq_none⟩
  simp only [layoutError_eq_none_iff, firstOverlap_eq_none_iff, Field.valid_iff, Field.overlaps_iff]

/-- Settles O46: each item of the table of R110 in turn. -/
theorem powerOnState : Obligations.PowerOnState :=
  ⟨Regs.get_zero, fun _ => rfl, fun _ => rfl, rfl, rfl, rfl, rfl, rfl, rfl, rfl, rfl, rfl, rfl, rfl, rfl, rfl, rfl,
    rfl, rfl, rfl, rfl, fault_reset⟩

/-- Settles O47. -/
theorem powerOnMeetsTheInvariant : Obligations.PowerOnMeetsTheInvariant := inv_reset

/-- Settles O54: VBLANK and NMI_EN are bit 7 of their registers. -/
theorem nmiIsALevel : Obligations.NmiIsALevel :=
  ⟨fun s => by rw [State.nmi, State.vblank_eq, State.nmiEnabled_eq], fun _ _ hs hc => State.nmi_congr hs hc⟩

end Sys2Proof.Machine

/-! PROOFS. The memory spaces (20_memory.md): where a PPU-space address resolves, and the command a step takes. -/

namespace Sys2Proof.Machine

/-! ### The mirrors of the PPU space (R155) -/

/-- In the name-table mirror the spec's address is 0x1000 below the given one (R156). -/
theorem nameTableMirror_eq {a : Addr} (hlow : 0x3000 ≤ a.toNat) (hhigh : a.toNat ≤ 0x3EFF) :
    BitVec.ofNat 16 (0x2000 + (a.toNat - 0x3000) % 0x1000) = a - 0x1000 := by
  have hmod : (a.toNat - 0x3000) % 0x1000 = a.toNat - 0x3000 := Nat.mod_eq_of_lt (by omega)
  rw [hmod]
  bv_omega

/-- In the palette mirror the spec's address, computed in the naturals, is the one computed in 16 bits. -/
theorem paletteMirror_eq {a : Addr} (hlow : 0x3F20 ≤ a.toNat) :
    BitVec.ofNat 16 (0x3F00 + (a.toNat - 0x3F20) % 0x20) = 0x3F00 + (a - 0x3F20) % 0x20 := by
  have hoffset : ((a - 0x3F20) % 0x20).toNat = (a.toNat - 0x3F20) % 0x20 := by
    rw [BitVec.toNat_umod, BitVec.toNat_sub_of_le hlow]; rfl
  rw [← hoffset, BitVec.ofNat_add, BitVec.ofNat_toNat, BitVec.setWidth_eq]; rfl

/-! ### The command a step takes (R170, R470) -/

/-- The block accepts the first command the driver issued. -/
theorem State.accept_cons {s : State} {w : Command} {rest : List Command} (h : s.commands = w :: rest) :
    s.accept = some (w, { s with commands := rest }) := by
  rw [State.accept, h]

/-- A step that accepts the word of an instruction is that instruction's meaning. -/
theorem step_of_accept_instr {s t : State} {w : Command} {i : Instr} (hf : s.fault = none)
    (ha : s.accept = some (w, t)) (hd : decode w = .instr i) : step s = exec i t := by
  simp only [step, hf, ha, hd]

/-! ### The obligations -/

/-- Settles O36, range by range: below 0x4000 each mirror resolves in one hop. -/
theorem resolveMirrors : Obligations.ResolveMirrors := by
  intro a
  obtain ⟨hmap, hnt, hntMirror, hpal, hpalMirror, hnone⟩ := resolve_spec a
  split_ifs with h2000 h3000 h3F00 h3F20 h4000
  · exact hmap (by omega)
  · exact hnt (by omega) (by omega)
  · rw [hntMirror (by omega) (by omega), nameTableMirror_eq (by omega) (by omega)]
  · exact hpal (by omega) (by omega)
  · rw [hpalMirror (by omega) (by omega), paletteMirror_eq (by omega)]
  · exact hnone (by omega)

/-- Settles O6: the word that heads the queue is the one accepted. -/
theorem stepRunsTheDecodedCommand : Obligations.StepRunsTheDecodedCommand := fun _ _ _ _ hf hc hd =>
  step_of_accept_instr hf (State.accept_cons hc) hd

end Sys2Proof.Machine

/-! PROOFS. The encoding (30_encoding.md). A word is legal when its OP is listed and the reserved bits of its
format are 0. A legal word is its format applied to its own fields, so it is the word of an instruction; the
decoder reads back every word of a well-formed instruction, and reads nothing else. -/

namespace Sys2Proof.Machine

/-! ### The register-bus rows as a table over the registers -/

/-- The RD command of a register (R204). -/
def RegName.read : RegName → Instr
  | .ppuctrl => .rdCtrl
  | .ppumask => .rdMask
  | .ppustatus => .rdStatus
  | .oamaddr => .rdOamaddr
  | .oamdata => .rdOamdata
  | .ppuscroll => .rdScroll
  | .ppuaddr => .rdAddr
  | .ppudata => .rdData
  | .oamdma => .rdOamdma
  | .dmcCtrl => .rdDmcCtrl
  | .dmcAddr => .rdDmcAddr
  | .dmcLen => .rdDmcLen

/-- The WR command of a register (R204). -/
def RegName.write : RegName → Byte → Instr
  | .ppuctrl => .wrCtrl
  | .ppumask => .wrMask
  | .ppustatus => .wrStatus
  | .oamaddr => .wrOamaddr
  | .oamdata => .wrOamdata
  | .ppuscroll => .wrScroll
  | .ppuaddr => .wrAddr
  | .ppudata => .wrData
  | .oamdma => .wrOamdma
  | .dmcCtrl => .wrDmcCtrl
  | .dmcAddr => .wrDmcAddr
  | .dmcLen => .wrDmcLen

/-- The RD row of a register: no bit of its words is free. -/
def RegName.readRow (r : RegName) : Row := ⟨formatA 0x01 r.addr, 0xFFFFFFFFFFFFFFFF, fun _ => r.read⟩

/-- The WR row of a register: only D is free. -/
def RegName.writeRow (r : RegName) : Row :=
  ⟨formatAD 0x02 0 r.addr, 0xFFFFFFFFFF00FFFF, fun w => r.write (fieldD w)⟩

theorem readRows_eq : readRows = RegName.all.map RegName.readRow := rfl

theorem writeRows_eq : writeRows = RegName.all.map RegName.writeRow := rfl

@[simp] theorem encode_read (r : RegName) : encode r.read = formatA 0x01 r.addr := by cases r <;> rfl

@[simp] theorem encode_write (r : RegName) (d : Byte) : encode (r.write d) = formatAD 0x02 d r.addr := by
  cases r <;> rfl

@[simp] theorem wf_read (r : RegName) : r.read.wf = true := by cases r <;> rfl

@[simp] theorem wf_write (r : RegName) (d : Byte) : (r.write d).wf = true := by cases r <;> rfl

/-- The address of a register names it: no two registers share one (R60). -/
@[simp] theorem RegName.ofAddr_addr (r : RegName) : RegName.ofAddr r.addr = some r := by cases r <;> rfl

theorem RegName.addr_of_ofAddr {a : Addr} {r : RegName} (h : RegName.ofAddr a = some r) : r.addr = a := by
  simpa using List.find?_some h

/-- An address is mapped exactly when it is one of the twelve of R60. -/
theorem mapped_iff (a : Addr) : mapped a = true ↔ a ∈ busAddresses := by
  have hbus : busAddresses = RegName.all.map RegName.addr := rfl
  rw [mapped, RegName.ofAddr, List.find?_isSome, hbus, List.mem_map]
  simp only [beq_iff_eq]

/-! ### Rows that select a word -/

/-- The patterns differ in some bit that both masks keep, so no word matches both rows. -/
def DisjointRows (r q : Row) : Prop := r.pattern &&& q.mask ≠ q.pattern &&& r.mask

theorem DisjointRows.not_both_select {r q : Row} (hd : DisjointRows r q) {w : Command} (hr : r.selects w = true) :
    ¬ q.selects w = true := by
  intro hq
  apply hd
  rw [← beq_iff_eq.mp hr, ← beq_iff_eq.mp hq, BitVec.and_assoc, BitVec.and_assoc, BitVec.and_comm q.mask]

/-- The rows the loop of R205 tries are disjoint. -/
theorem rows_pairwise_disjoint : rows.Pairwise DisjointRows := by
  unfold DisjointRows
  decide

theorem mem_and_selects_of_find {r : Row} {w : Command} (h : rows.find? (·.selects w) = some r) :
    r ∈ rows ∧ r.selects w = true :=
  ⟨List.mem_of_find?_eq_some h, List.find?_some (p := fun r : Row => r.selects w) h⟩

/-- A row that selects a word is the one it decodes by, wherever the row stands (R205). -/
theorem decode_of_selects {r : Row} (hr : r ∈ rows) {w : Command} (h : r.selects w = true) :
    decode w = .instr (r.build w) := by
  have hsymm : Std.Symm DisjointRows := ⟨fun _ _ => Ne.symm⟩
  cases hfind : rows.find? (·.selects w) with
  | none => exact absurd h (List.find?_eq_none.mp hfind r hr)
  | some q =>
    obtain ⟨hq, hqw⟩ := mem_and_selects_of_find hfind
    have hqr : q = r := by
      by_contra hne
      exact (rows_pairwise_disjoint.forall hq hr hne).not_both_select hqw h
    rw [decode, hfind, hqr]

/-- With no row of R204 selecting a word, only the UNMAPPED rows can (R205). -/
theorem decode_of_find_none {w : Command} (h : rows.find? (·.selects w) = none) :
    decode w =
      if rdUnmappedRow.selects w then .instr (rdUnmappedRow.build w)
      else if wrUnmappedRow.selects w then .instr (wrUnmappedRow.build w)
      else .illegal (illegalReason w) := by
  rw [decode, h]

/-! ### Decoding each format -/

theorem readRow_selects (r : RegName) (a : Addr) : r.readRow.selects (formatA 0x01 a) = (r.addr == a) := by
  have hall : formatA 0x01 a &&& 0xFFFFFFFFFFFFFFFF = formatA 0x01 a := BitVec.and_allOnes
  rw [Bool.eq_iff_iff, Row.selects, RegName.readRow, hall, beq_iff_eq, beq_iff_eq]
  exact ⟨fun h => by simpa using (congrArg fieldA h).symm, fun h => by rw [h]⟩

/-- The mask of a WR row clears D and keeps the rest (R204). -/
theorem formatAD_and_mask (op d : Byte) (a : Addr) :
    formatAD op d a &&& 0xFFFFFFFFFF00FFFF = formatAD op 0 a := by
  have hmask : ∀ i < 64, (0xFFFFFFFFFF00FFFF : Command).getLsbD i = decide (i < 16 ∨ 24 ≤ i) := by decide
  apply BitVec.eq_of_getLsbD_eq
  intro i hi
  rw [BitVec.getLsbD_and, hmask i hi, formatAD_bit, formatAD_bit]
  split_ifs with h16 h24 h56
  · simp [h16]
  · simp [h16, h24]
  · simp
  · simp [Nat.le_of_not_lt h24]

theorem writeRow_selects (r : RegName) (d : Byte) (a : Addr) :
    r.writeRow.selects (formatAD 0x02 d a) = (r.addr == a) := by
  rw [Bool.eq_iff_iff, Row.selects, RegName.writeRow, formatAD_and_mask, beq_iff_eq, beq_iff_eq]
  exact ⟨fun h => by simpa using (congrArg fieldA h).symm, fun h => by rw [h]⟩

/-- The row of a word of format A is the RD row of the register at its address. -/
theorem find_formatA (a : Addr) :
    rows.find? (·.selects (formatA 0x01 a)) = (RegName.ofAddr a).map RegName.readRow := by
  rw [find_rows (fieldOp_formatA _ _), rows_of_op.1, readRows_eq, List.find?_map]
  simp only [Function.comp_def, readRow_selects, RegName.ofAddr]

/-- The row of a word of format AD is the WR row of the register at its address. -/
theorem find_formatAD (d : Byte) (a : Addr) :
    rows.find? (·.selects (formatAD 0x02 d a)) = (RegName.ofAddr a).map RegName.writeRow := by
  rw [find_rows (fieldOp_formatAD _ _ _), rows_of_op.2, writeRows_eq, List.find?_map]
  simp only [Function.comp_def, writeRow_selects, RegName.ofAddr]

theorem decode_read (r : RegName) : decode (formatA 0x01 r.addr) = .instr r.read := by
  rw [decode, find_formatA, RegName.ofAddr_addr]; rfl

theorem decode_write (r : RegName) (d : Byte) : decode (formatAD 0x02 d r.addr) = .instr (r.write d) := by
  rw [decode, find_formatAD, RegName.ofAddr_addr]
  simp [RegName.writeRow]

/-! ### Legal words -/

/-- The word has an OP of R203 and leaves the reserved bits of its format 0 (R201). -/
def Legal (w : Command) : Prop := fieldOp w ∈ opcodes ∧ w &&& reservedBits (fieldOp w) = 0

/-- The bits that are not an operand's in the format of an opcode: OP and the reserved bits (R201). -/
def formatMask (op : Byte) : Command := 0xFF00000000000000 ||| reservedBits op

/-- The OP field alone of a word. -/
theorem and_opMask (w : Command) : w &&& 0xFF00000000000000 = formatN (fieldOp w) := by
  have hmask : ∀ i < 64, (0xFF00000000000000 : Command).getLsbD i = decide (56 ≤ i) := by decide
  apply BitVec.eq_of_getLsbD_eq
  intro i hi
  rw [BitVec.getLsbD_and, hmask i hi, formatN_bit, fieldOp, BitVec.getLsbD_extractLsb']
  by_cases h : i < 56
  · simp [h]
  · rw [if_neg h, show 56 + (i - 56) = i by omega]
    have hop : 56 ≤ i ∧ i - 56 < 8 := by omega
    simp only [hop, decide_true, Bool.true_and, Bool.and_true]

theorem formatN_and_reservedBits : ∀ op : Byte, formatN op &&& reservedBits op = 0 := by decide

theorem formatMask_and_reservedBits (op : Byte) : formatMask op &&& reservedBits op = reservedBits op := by
  rw [formatMask]
  grind

/-- Outside its operands a word of a format is the OP alone: it has that OP, and no reserved bit is 1. -/
theorem and_formatMask_iff (w : Command) (op : Byte) :
    w &&& formatMask op = formatN op ↔ fieldOp w = op ∧ w &&& reservedBits op = 0 := by
  have hsplit : w &&& formatMask op = formatN (fieldOp w) ||| (w &&& reservedBits op) := by
    rw [formatMask, BitVec.and_or_distrib_left, and_opMask]
  constructor
  · intro h
    have hres : w &&& reservedBits op = 0 := by
      rw [← formatMask_and_reservedBits, ← BitVec.and_assoc, h, formatN_and_reservedBits]
    rw [hsplit, hres] at h
    exact ⟨by simpa using congrArg fieldOp h, hres⟩
  · rintro ⟨hop, hres⟩
    rw [hsplit, hop, hres]
    exact BitVec.or_zero

/-- Every row of R204 keeps the OP and the reserved bits of its format, and has no reserved bit set. -/
theorem rows_keep_format : ∀ r ∈ rdUnmappedRow :: wrUnmappedRow :: rows,
    fieldOp r.pattern ∈ opcodes ∧
    r.mask &&& formatMask (fieldOp r.pattern) = formatMask (fieldOp r.pattern) ∧
    r.pattern &&& formatMask (fieldOp r.pattern) = formatN (fieldOp r.pattern) := by
  decide

/-- A row selects only legal words. -/
theorem legal_of_selects {r : Row} (hr : r ∈ rdUnmappedRow :: wrUnmappedRow :: rows) {w : Command}
    (h : r.selects w = true) : Legal w := by
  obtain ⟨hop, hmask, hpattern⟩ := rows_keep_format r hr
  have hw : w &&& formatMask (fieldOp r.pattern) = formatN (fieldOp r.pattern) := by
    rw [← hmask, ← BitVec.and_assoc, beq_iff_eq.mp h, hpattern]
  obtain ⟨hwop, hres⟩ := (and_formatMask_iff _ _).mp hw
  rw [← hwop] at hop hres
  exact ⟨hop, hres⟩

/-- The decoder accepts only legal words. -/
theorem legal_of_decode {w : Command} {i : Instr} (h : decode w = .instr i) : Legal w := by
  cases hfind : rows.find? (·.selects w) with
  | some r =>
    obtain ⟨hr, hrw⟩ := mem_and_selects_of_find hfind
    exact legal_of_selects (List.mem_cons_of_mem _ (List.mem_cons_of_mem _ hr)) hrw
  | none =>
    rw [decode_of_find_none hfind] at h
    split_ifs at h with hrd hwr
    · exact legal_of_selects List.mem_cons_self hrd
    · exact legal_of_selects (List.mem_cons_of_mem _ List.mem_cons_self) hwr

/-- A row that frees exactly the operands of its format selects the legal words of its OP. -/
theorem selects_iff {r : Row} {op : Byte} (hm : r.mask = formatMask op) (hp : r.pattern = formatN op)
    (w : Command) : r.selects w = true ↔ fieldOp w = op ∧ w &&& reservedBits op = 0 := by
  rw [Row.selects, hm, hp, beq_iff_eq, and_formatMask_iff]

theorem Legal.selects {r : Row} {op : Byte} {w : Command} (h : Legal w) (hop : fieldOp w = op)
    (hm : r.mask = formatMask op) (hp : r.pattern = formatN op) : r.selects w = true :=
  (selects_iff hm hp w).mpr ⟨hop, hop ▸ h.2⟩

theorem rdUnmappedRow_selects_iff (w : Command) :
    rdUnmappedRow.selects w = true ↔ fieldOp w = 0x01 ∧ w &&& reservedBits 0x01 = 0 :=
  selects_iff (by decide) (by decide) w

theorem wrUnmappedRow_selects_iff (w : Command) :
    wrUnmappedRow.selects w = true ↔ fieldOp w = 0x02 ∧ w &&& reservedBits 0x02 = 0 :=
  selects_iff (by decide) (by decide) w

/-! ### Decoding the remaining formats -/

theorem ofAddr_eq_none {a : Addr} (h : (!mapped a) = true) : RegName.ofAddr a = none := by
  simpa [mapped] using h

/-- A read of an unmapped address is left to the RD.UNMAPPED row (R205). -/
theorem decode_readUnmapped {a : Addr} (h : (!mapped a) = true) :
    decode (formatA 0x01 a) = .instr (.rdUnmapped a) := by
  have hlegal : Legal (formatA 0x01 a) := Laws.ReservedBits.of_formatA a
  have hfind : rows.find? (·.selects (formatA 0x01 a)) = none := by rw [find_formatA, ofAddr_eq_none h]; rfl
  rw [decode_of_find_none hfind, if_pos (hlegal.selects (fieldOp_formatA _ _) (by decide) (by decide))]
  simp [rdUnmappedRow]

/-- A write of an unmapped address is left to the WR.UNMAPPED row (R205). -/
theorem decode_writeUnmapped {a : Addr} (h : (!mapped a) = true) (d : Byte) :
    decode (formatAD 0x02 d a) = .instr (.wrUnmapped d a) := by
  have hlegal : Legal (formatAD 0x02 d a) := Laws.ReservedBits.of_formatAD d a
  have hfind : rows.find? (·.selects (formatAD 0x02 d a)) = none := by
    rw [find_formatAD, ofAddr_eq_none h]; rfl
  have hrd : ¬ rdUnmappedRow.selects (formatAD 0x02 d a) = true := by simp [rdUnmappedRow_selects_iff]
  rw [decode_of_find_none hfind, if_neg hrd,
    if_pos (hlegal.selects (fieldOp_formatAD _ _ _) (by decide) (by decide))]
  simp [wrUnmappedRow]

theorem decode_plot (x y : Byte) (c : Pixel) : decode (formatP 0x11 y x c) = .instr (.plot x y c) := by
  have hlegal : Legal (formatP 0x11 y x c) := Laws.ReservedBits.of_formatP y x c
  have hrow : unitRows[1] ∈ rows := List.mem_append_right _ (List.getElem_mem _)
  rw [decode_of_selects hrow (hlegal.selects (fieldOp_formatP _ _ _ _) (by decide) (by decide))]
  simp [unitRows]

theorem decode_tile (t : BitVec 1) (n : Byte) (r x : BitVec 3) :
    decode (formatT 0x12 t n r x) = .instr (.tile t n r x) := by
  have hlegal : Legal (formatT 0x12 t n r x) := Laws.ReservedBits.of_formatT t n r x
  have hrow : unitRows[2] ∈ rows := List.mem_append_right _ (List.getElem_mem _)
  rw [decode_of_selects hrow (hlegal.selects (fieldOp_formatT _ _ _ _ _) (by decide) (by decide))]
  simp [unitRows]

/-- The decoder undoes the encoder. -/
theorem decode_encode {i : Instr} (h : i.wf = true) : decode (encode i) = .instr i := by
  cases i with
  | rdCtrl => exact decode_read .ppuctrl
  | rdMask => exact decode_read .ppumask
  | rdStatus => exact decode_read .ppustatus
  | rdOamaddr => exact decode_read .oamaddr
  | rdOamdata => exact decode_read .oamdata
  | rdScroll => exact decode_read .ppuscroll
  | rdAddr => exact decode_read .ppuaddr
  | rdData => exact decode_read .ppudata
  | rdOamdma => exact decode_read .oamdma
  | rdDmcCtrl => exact decode_read .dmcCtrl
  | rdDmcAddr => exact decode_read .dmcAddr
  | rdDmcLen => exact decode_read .dmcLen
  | rdUnmapped a => exact decode_readUnmapped h
  | wrCtrl d => exact decode_write .ppuctrl d
  | wrMask d => exact decode_write .ppumask d
  | wrStatus d => exact decode_write .ppustatus d
  | wrOamaddr d => exact decode_write .oamaddr d
  | wrOamdata d => exact decode_write .oamdata d
  | wrScroll d => exact decode_write .ppuscroll d
  | wrAddr d => exact decode_write .ppuaddr d
  | wrData d => exact decode_write .ppudata d
  | wrOamdma d => exact decode_write .oamdma d
  | wrDmcCtrl d => exact decode_write .dmcCtrl d
  | wrDmcAddr d => exact decode_write .dmcAddr d
  | wrDmcLen d => exact decode_write .dmcLen d
  | wrUnmapped d a => exact decode_writeUnmapped h d
  | plot x y c => exact decode_plot x y c
  | tile t n r x => exact decode_tile t n r x
  | step | dupd | dstart | dstop | drem | reset => decide

/-! ### A legal word is its format applied to its own fields -/

/-- A range of reserved bits reads 0 in a word that leaves them clear. -/
theorem extract_reserved {w m : Command} (h : w &&& m = 0) (k n : Nat)
    (hm : m.extractLsb' k n = BitVec.allOnes n) : w.extractLsb' k n = 0 := by
  have hw := congrArg (BitVec.extractLsb' k n) h
  rw [BitVec.extractLsb'_and, hm, BitVec.and_allOnes] at hw
  simpa using hw

theorem formatN_fields {w : Command} {op : Byte} (hop : fieldOp w = op) (h : w &&& reservedBits op = 0)
    (hbits : reservedBits op = 0x00FFFFFFFFFFFFFF) : formatN op = w := by
  rw [hbits] at h
  simp only [← hop, formatN, fieldOp, ← extract_reserved h 0 56 rfl,
    BitVec.extractLsb'_append_extractLsb'_eq_extractLsb']
  exact BitVec.extractLsb'_eq_self

theorem formatA_fields {w : Command} (hop : fieldOp w = 0x01) (h : w &&& reservedBits 0x01 = 0) :
    formatA 0x01 (fieldA w) = w := by
  simp only [← hop, formatA, fieldOp, fieldA, ← extract_reserved h 16 40 rfl,
    BitVec.extractLsb'_append_extractLsb'_eq_extractLsb']
  exact BitVec.extractLsb'_eq_self

theorem formatAD_fields {w : Command} (hop : fieldOp w = 0x02) (h : w &&& reservedBits 0x02 = 0) :
    formatAD 0x02 (fieldD w) (fieldA w) = w := by
  simp only [← hop, formatAD, fieldOp, fieldD, fieldA, ← extract_reserved h 24 32 rfl,
    BitVec.extractLsb'_append_extractLsb'_eq_extractLsb']
  exact BitVec.extractLsb'_eq_self

theorem formatP_fields {w : Command} (hop : fieldOp w = 0x11) (h : w &&& reservedBits 0x11 = 0) :
    formatP 0x11 (fieldY w) (fieldPX w) (fieldC w) = w := by
  simp only [← hop, formatP, fieldOp, fieldY, fieldPX, fieldC, ← extract_reserved h 32 8 rfl,
    BitVec.extractLsb'_append_extractLsb'_eq_extractLsb']
  exact BitVec.extractLsb'_eq_self

theorem formatT_fields {w : Command} (hop : fieldOp w = 0x12) (h : w &&& reservedBits 0x12 = 0) :
    formatT 0x12 (fieldT w) (fieldN w) (fieldR w) (fieldTX w) = w := by
  simp only [← hop, formatT, fieldOp, fieldT, fieldN, fieldR, fieldTX, ← extract_reserved h 49 7 rfl,
    ← extract_reserved h 11 29 rfl, ← extract_reserved h 3 5 rfl,
    BitVec.extractLsb'_append_extractLsb'_eq_extractLsb']
  exact BitVec.extractLsb'_eq_self

/-- Every address is a register's or unmapped. -/
theorem addr_cases (a : Addr) : (∃ r : RegName, r.addr = a) ∨ (!mapped a) = true := by
  cases h : RegName.ofAddr a with
  | some r => exact .inl ⟨r, RegName.addr_of_ofAddr h⟩
  | none => exact .inr (by rw [mapped, h]; rfl)

theorem exists_encode_formatA (a : Addr) : ∃ i : Instr, i.wf = true ∧ encode i = formatA 0x01 a := by
  obtain ⟨r, rfl⟩ | h := addr_cases a
  · exact ⟨r.read, wf_read r, encode_read r⟩
  · exact ⟨.rdUnmapped a, h, rfl⟩

theorem exists_encode_formatAD (d : Byte) (a : Addr) :
    ∃ i : Instr, i.wf = true ∧ encode i = formatAD 0x02 d a := by
  obtain ⟨r, rfl⟩ | h := addr_cases a
  · exact ⟨r.write d, wf_write r d, encode_write r d⟩
  · exact ⟨.wrUnmapped d a, h, rfl⟩

/-- A legal word is the word of a well-formed instruction. -/
theorem Legal.exists_encode {w : Command} (h : Legal w) : ∃ i : Instr, i.wf = true ∧ encode i = w := by
  obtain ⟨hop, hres⟩ := h
  simp only [opcodes, List.mem_cons, List.not_mem_nil, or_false] at hop
  rcases hop with hop | hop | hop | hop | hop | hop | hop | hop | hop | hop
  all_goals rw [hop] at hres
  · rw [← formatA_fields hop hres]
    exact exists_encode_formatA _
  · rw [← formatAD_fields hop hres]
    exact exists_encode_formatAD _ _
  · exact ⟨.step, rfl, formatN_fields hop hres rfl⟩
  · exact ⟨.plot (fieldPX w) (fieldY w) (fieldC w), rfl, formatP_fields hop hres⟩
  · exact ⟨.tile (fieldT w) (fieldN w) (fieldR w) (fieldTX w), rfl, formatT_fields hop hres⟩
  · exact ⟨.dupd, rfl, formatN_fields hop hres rfl⟩
  · exact ⟨.dstart, rfl, formatN_fields hop hres rfl⟩
  · exact ⟨.dstop, rfl, formatN_fields hop hres rfl⟩
  · exact ⟨.drem, rfl, formatN_fields hop hres rfl⟩
  · exact ⟨.reset, rfl, formatN_fields hop hres rfl⟩

/-- The decoder and the encoder are inverse to each other on the well-formed instructions. -/
theorem decode_eq_instr_iff (w : Command) (i : Instr) :
    decode w = .instr i ↔ i.wf = true ∧ encode i = w := by
  constructor
  · intro h
    obtain ⟨j, hwf, rfl⟩ := (legal_of_decode h).exists_encode
    obtain rfl : j = i := Decoded.instr.inj ((decode_encode hwf).symm.trans h)
    exact ⟨hwf, rfl⟩
  · rintro ⟨hwf, rfl⟩
    exact decode_encode hwf

/-! ### ILLEGAL words -/

theorem decode_illegal_iff (w : Command) : (∃ why, decode w = .illegal why) ↔ ¬ Legal w := by
  cases hd : decode w with
  | instr i => simpa using legal_of_decode hd
  | illegal why =>
    refine iff_of_true ⟨why, rfl⟩ fun hl => ?_
    obtain ⟨i, hi⟩ := hl.exists_encode
    cases hd.symm.trans ((decode_eq_instr_iff w i).mpr hi)

/-- The reason of a rejection is the one R206 gives the word. -/
theorem illegal_reason {w : Command} {why : Illegal} (h : decode w = .illegal why) : why = illegalReason w := by
  cases hfind : rows.find? (·.selects w) with
  | some r => rw [decode, hfind] at h; cases h
  | none =>
    rw [decode_of_find_none hfind] at h
    split_ifs at h
    exact (Decoded.illegal.inj h).symm

theorem illegalReason_eq_reservedOpcode_iff (w : Command) :
    illegalReason w = .reservedOpcode ↔ fieldOp w ∉ opcodes := by
  simp [illegalReason]

/-! ### The address latch -/

/-- WR.ADDR as one update (R327). -/
theorem exec_wrAddr (d : Byte) (s : State) :
    exec (.wrAddr d) s = .next
      { s with
        regs := s.regs.put .ppuaddr d
        latch :=
          { address :=
              if s.latch.pendingHighByte then d ++ s.latch.address.setWidth 8
              else s.latch.address.extractLsb' 8 8 ++ d
            pendingHighByte := !s.latch.pendingHighByte }
        result := .nothing } := by
  simp only [exec, execWrAddr, State.setValue_byte]
  cases hp : s.latch.pendingHighByte <;>
    simp [State.flipToggle, State.respond, BitOps.latch_high, BitOps.latch_low]

/-! ### The obligations -/

/-- Settles O2: each format's words decode by the row of their own register or unit. -/
theorem decodeEncodeRoundTrip : Obligations.DecodeEncodeRoundTrip := fun _ => decode_encode

/-- Settles O3: what decodes is legal, hence the word of a well-formed instruction, and that one is read
back. -/
theorem decodedWordsAreTheEncodersOwn : Obligations.DecodedWordsAreTheEncodersOwn := fun w i =>
  (decode_eq_instr_iff w i).mp

/-- Settles O4: the ILLEGAL words are those that are not legal. -/
theorem illegalWordsExactly : Obligations.IllegalWordsExactly := by
  intro w
  have hillegal := decode_illegal_iff w
  constructor
  · rw [hillegal, Legal, not_and_or]
  · rw [← illegalReason_eq_reservedOpcode_iff]
    refine ⟨fun h => (illegal_reason h).symm, fun hreason => ?_⟩
    obtain ⟨why, hwhy⟩ := hillegal.mpr fun hl => (illegalReason_eq_reservedOpcode_iff w).mp hreason hl.1
    rw [hwhy, illegal_reason hwhy, hreason]

/-- Settles O5: the rows are disjoint, and a word that an UNMAPPED row matches is the word of the UNMAPPED
instruction with its A field, which is well formed for an unmapped A only. -/
theorem rowThatMatchesDecodes : Obligations.RowThatMatchesDecodes := by
  refine ⟨fun r hr w h => decode_of_selects hr (beq_iff_eq.mpr h), fun w h => ?_, fun w h => ?_⟩
  · obtain ⟨hop, hres⟩ := (rdUnmappedRow_selects_iff w).mp (beq_iff_eq.mpr h)
    have hencode : encode (.rdUnmapped (w.extractLsb' 0 16)) = w := formatA_fields hop hres
    rw [decode_eq_instr_iff, and_iff_left hencode, ← mapped_iff]
    simp [Instr.wf]
  · obtain ⟨hop, hres⟩ := (wrUnmappedRow_selects_iff w).mp (beq_iff_eq.mpr h)
    have hencode : encode (.wrUnmapped (w.extractLsb' 16 8) (w.extractLsb' 0 16)) = w := formatAD_fields hop hres
    rw [decode_eq_instr_iff, and_iff_left hencode, ← mapped_iff]
    simp [Instr.wf]

/-- Settles O34: the status read sets the toggle, so the two writes give the high byte and then the low one. -/
theorem addressPairSetsTheLatch : Obligations.AddressPairSetsTheLatch := by
  intro h l s
  simp only [execAll, exec_rdStatus, exec_wrAddr]
  exact ⟨_, rfl, congrArg (fun b : Byte => Latch.mk (b ++ l) true) BitVec.extractLsb'_append_eq_left⟩

/-- Settles O1, by running the decoder on each word. -/
theorem decodeSampleWords : Obligations.DecodeSampleWords := by
  unfold Obligations.DecodeSampleWords
  decide

end Sys2Proof.Machine

/-! PROOFS. The PictureEngine (40_ppu_engine.md): the linear position of R253 and what STEP does there, runs of
STEPs, PLOT and TILE. -/

namespace Sys2Proof.Machine

/-! ### The linear position (R253) -/

/-- The linear position tells the cycle and the scanline apart. -/
theorem State.PositionOk.position_eq_iff {s : State} (h : s.PositionOk) {c : Nat} (hc : c ≤ 340) (l : Int) :
    s.position = (l + 1) * 341 + c ↔ s.scanline = l ∧ s.cycle = c := by
  obtain ⟨hcycle, -, -⟩ := h
  unfold State.position
  omega

theorem State.PositionOk.position_bounds {s : State} (h : s.PositionOk) :
    0 ≤ s.position ∧ s.position ≤ 89341 := by
  obtain ⟨hcycle, hlow, hhigh⟩ := h
  unfold State.position
  omega

/-- The last position of a frame. -/
theorem State.PositionOk.position_last_iff {s : State} (h : s.PositionOk) :
    s.position = 89341 ↔ s.cycle = 340 ∧ s.scanline = 260 :=
  (h.position_eq_iff (c := 340) le_rfl 260).trans and_comm

/-! ### One STEP (R250 to R252) -/

/-- STEP moves to the next linear position, around the frame. -/
theorem exec_step_position {s t : State} (h : exec .step s = .next t) (hp : s.PositionOk) :
    t.position = (s.position + 1) % 89342 := by
  obtain ⟨hcycle, hlow, hhigh⟩ := hp
  rw [exec_step] at h; cases h
  simp only [State.position]
  split_ifs <;> omega

/-- STEP counts and delivers a frame exactly at the last position, and no STEP writes the frame buffer. -/
theorem exec_step_frame {s t : State} (h : exec .step s = .next t) (hp : s.PositionOk) :
    t.frame = (if s.position = 89341 then s.frame + 1 else s.frame) ∧
    t.history =
      (if s.position = 89341 then s.history ++ [.frame (s.frame + 1) s.frameBuffer] else s.history) ∧
    t.frameBuffer = s.frameBuffer := by
  rw [exec_step] at h; cases h
  simp only [hp.position_last_iff, and_self]

theorem exec_step_ppustatus {s t : State} (h : exec .step s = .next t) :
    t.regs.ppustatus = s.statusAfterEvents := by
  rw [exec_step] at h; cases h; rfl

theorem exec_step_nmiEnabled {s t : State} (h : exec .step s = .next t) : t.nmiEnabled = s.nmiEnabled := by
  rw [exec_step] at h; cases h
  rw [State.nmiEnabled_eq, State.nmiEnabled_eq, Regs.put]

/-- STEP sets VBLANK at (1, 241), clears it at (1, -1), and leaves it alone elsewhere. -/
theorem exec_step_vblank {s t : State} (h : exec .step s = .next t) :
    t.vblank =
      if s.scanline = 241 ∧ s.cycle = 1 then true
      else if s.scanline = -1 ∧ s.cycle = 1 then false
      else s.vblank := by
  rw [State.vblank_eq, exec_step_ppustatus h, State.statusAfterEvents, State.vblank_eq]
  split_ifs <;> simp

/-- VBLANK by the linear position: set at 82523, cleared at 1. -/
theorem exec_step_vblank_iff {s t : State} (h : exec .step s = .next t) (hp : s.PositionOk) :
    t.vblank = true ↔ s.position = 82523 ∨ s.position ≠ 1 ∧ s.vblank = true := by
  have hset : s.position = 82523 ↔ s.scanline = 241 ∧ s.cycle = 1 := hp.position_eq_iff (c := 1) (by decide) 241
  have hclear : s.position = 1 ↔ s.scanline = -1 ∧ s.cycle = 1 := by
    simpa using hp.position_eq_iff (c := 1) (by decide) (-1)
  rw [exec_step_vblank h, ne_eq, hset, hclear]
  split_ifs with hs hc
  · exact iff_of_true rfl (.inl hs)
  · simp [hc]
  · simp only [hs, hc, not_false_eq_true, true_and, false_or]

/-- The mask of the pre-render clear leaves 0 in every field PPUSTATUS declares (R63, R252). -/
theorem statusFields_cleared :
    ∀ b : Byte, ∀ f ∈ RegName.fields .ppustatus,
      BitOps.getBits (b &&& 0x1F).toNat f.bitOffset f.bitWidth = 0 := by
  decide

/-! ### Runs of one command -/

/-- What holds before a run, and is carried from each count to the next by the command, holds after the run. -/
theorem repeatExec_induction {i : Instr} {P : Nat → State → Prop} {s : State} (h0 : P 0 s)
    (hstep : ∀ k t u, P k t → exec i t = .next u → P (k + 1) u) (k : Nat) :
    ∃ t, repeatExec i k s = .next t ∧ P k t := by
  induction k with
  | zero => exact ⟨s, rfl, h0⟩
  | succ k ih =>
    obtain ⟨t, ht, hk⟩ := ih
    obtain ⟨u, hu⟩ := exec_next i t
    exact ⟨u, repeatExec_succ ht hu, hstep k t u hk hu⟩

/-! ### Runs of STEPs: position and frames -/

/-- How many frame boundaries `k` STEPs from `s` cross. -/
def State.boundaries (s : State) (k : Nat) : Nat := ((s.position + k) / 89342).toNat

theorem State.PositionOk.boundaries_zero {s : State} (h : s.PositionOk) : s.boundaries 0 = 0 := by
  have hbounds := h.position_bounds
  unfold State.boundaries
  omega

theorem State.PositionOk.boundaries_succ {s : State} (h : s.PositionOk) (k : Nat) :
    s.boundaries (k + 1) =
      if (s.position + k) % 89342 = 89341 then s.boundaries k + 1 else s.boundaries k := by
  have hbounds := h.position_bounds
  unfold State.boundaries
  split_ifs <;> omega

theorem State.PositionOk.boundaries_period {s : State} (h : s.PositionOk) : s.boundaries (341 * 262) = 1 := by
  have hbounds := h.position_bounds
  unfold State.boundaries
  omega

/-- The Frame events of the next `n` frames, with the frame buffer as it is (R168). -/
def State.frameEvents (s : State) (n : Nat) : List Event :=
  (List.range n).map fun j => .frame (s.frame + j + 1) s.frameBuffer

theorem State.frameEvents_succ (s : State) (n : Nat) :
    s.frameEvents (n + 1) = s.frameEvents n ++ [.frame (s.frame + n + 1) s.frameBuffer] := by
  simp [State.frameEvents, List.range_succ]

/-- `t` stands where `k` STEPs lead from `s`: so far around the frame, with a frame counted and delivered for
each boundary crossed. -/
structure State.Stepped (s : State) (k : Nat) (t : State) : Prop where
  positionOk : t.PositionOk
  position : t.position = (s.position + k) % 89342
  frame : t.frame = s.frame + s.boundaries k
  frameBuffer : t.frameBuffer = s.frameBuffer
  history : t.history = s.history ++ s.frameEvents (s.boundaries k)

theorem State.PositionOk.stepped_zero {s : State} (h : s.PositionOk) : s.Stepped 0 s where
  positionOk := h
  position := by
    have hbounds := h.position_bounds
    omega
  frame := by rw [h.boundaries_zero, Nat.add_zero]
  frameBuffer := rfl
  history := by rw [h.boundaries_zero]; exact (List.append_nil _).symm

theorem State.Stepped.step {s t u : State} {k : Nat} (h : s.Stepped k t) (hs : s.PositionOk)
    (hu : exec .step t = .next u) : s.Stepped (k + 1) u := by
  obtain ⟨htp, hpos, hframe, hbuffer, hhist⟩ := h
  obtain ⟨huframe, huhist, hubuffer⟩ := exec_step_frame hu htp
  rw [hpos, hframe] at huframe
  rw [hpos, hframe, hbuffer, hhist] at huhist
  refine ⟨exec_positionOk hu htp, ?_, ?_, hubuffer.trans hbuffer, ?_⟩
  · rw [exec_step_position hu htp, hpos]
    omega
  · rw [huframe, hs.boundaries_succ]
    split_ifs <;> rfl
  · rw [huhist, hs.boundaries_succ]
    split_ifs
    · rw [State.frameEvents_succ, List.append_assoc]
    · rfl

/-- Any number of STEPs from a position in range. -/
theorem State.PositionOk.repeat_step {s : State} (h : s.PositionOk) (k : Nat) :
    ∃ t, repeatExec .step k s = .next t ∧ s.Stepped k t :=
  repeatExec_induction h.stepped_zero (fun _ _ _ hk hu => hk.step h hu) k

/-! ### Runs of STEPs: VBLANK from the first position -/

/-- VBLANK is 1 after `k` STEPs from (0, -1) (R251 to R253). -/
def VBlankAfter (k : Nat) : Prop := 82524 ≤ k ∧ (k - 82524) % 89342 < 6820

/-- STEP `k + 1` begins at linear position `k` mod 89342: it sets VBLANK at 82523 and clears it at 1. -/
theorem vblankAfter_succ (k : Nat) :
    VBlankAfter (k + 1) ↔ (k : Int) % 89342 = 82523 ∨ (k : Int) % 89342 ≠ 1 ∧ VBlankAfter k := by
  unfold VBlankAfter
  omega

/-- From the first position on, the position and VBLANK follow the count of STEPs. -/
structure State.OnSchedule (k : Nat) (t : State) : Prop where
  positionOk : t.PositionOk
  position : t.position = k % 89342
  vblank : t.vblank = true ↔ VBlankAfter k

theorem State.onSchedule_zero {s : State} (hc : s.cycle = 0) (hl : s.scanline = -1) (hv : s.vblank = false) :
    s.OnSchedule 0 where
  positionOk := ⟨by omega, by omega, by omega⟩
  position := by rw [State.position, hc, hl]; rfl
  vblank := by simp [hv, VBlankAfter]

theorem State.OnSchedule.step {t u : State} {k : Nat} (h : t.OnSchedule k) (hu : exec .step t = .next u) :
    u.OnSchedule (k + 1) where
  positionOk := exec_positionOk hu h.positionOk
  position := by
    rw [exec_step_position hu h.positionOk, h.position]
    omega
  vblank := by rw [exec_step_vblank_iff hu h.positionOk, h.position, h.vblank, vblankAfter_succ]

/-! ### Reads of the pattern tables (R260) -/

/-- A PPU-space read below 0x2000 is one read on the MAP port (R157, R165). -/
theorem State.ppuRead_map (s : State) {a : Addr} (h : a.toNat ≤ 0x1FFF) :
    s.ppuRead a =
      { s with
        history := s.history ++ [.mapRead a (s.ppuByte a)]
        answers := s.answers.drop 1
        draws := s.draws + (1 - s.answers.length) } := by
  have hread := (s.ppuRead_mapped (show a.toNat < 0x4000 by omega)).1
  rwa [readEventsAt, if_pos h] at hread

/-- The byte of a mapped PPU-space read is the collaborator's answer (R157). -/
theorem State.answered_ppuRead (s : State) {a : Addr} (h : a.toNat < 0x4000) :
    s.Answered (s.ppuRead a) [s.ppuByte a] := by
  obtain ⟨hread, p, b, hbyte⟩ := s.ppuRead_mapped h
  rw [hread, hbyte]
  exact State.answered_one s _ p b rfl rfl

/-! ### The obligations -/

/-- Settles O16: the run crosses one boundary and comes back to the same linear position. -/
theorem framePeriod : Obligations.FramePeriod := by
  intro s hs
  obtain ⟨t, ht, htp, hpos, hframe, -, hhist⟩ := hs.repeat_step (341 * 262)
  have hsame : t.position = (s.scanline + 1) * 341 + s.cycle := by
    have hbounds := hs.position_bounds
    rw [hpos, ← State.position]
    omega
  obtain ⟨hscanline, hcycle⟩ := (htp.position_eq_iff hs.cycle s.scanline).mp hsame
  rw [hs.boundaries_period] at hframe hhist
  exact ⟨t, ht, hcycle, hscanline, hframe, hhist⟩

/-- Settles O17: the schedule holds at the first position and every STEP keeps it. -/
theorem vBlankSchedule : Obligations.VBlankSchedule := by
  intro s k hc hl hv
  obtain ⟨t, ht, hk⟩ := repeatExec_induction (State.onSchedule_zero hc hl hv) (fun _ _ _ => State.OnSchedule.step) k
  exact ⟨t, ht, hk.vblank⟩

/-- Settles O12: STEP as one update, with the register file written out. -/
theorem stepEffect : Obligations.StepEffect := ⟨decode_encode (i := .step) rfl, exec_step⟩

/-- Settles O13: at (1, 241) the status gets bit 7, and nmi is the AND of VBLANK and NMI_EN. -/
theorem vBlankSetRaisesNmi : Obligations.VBlankSetRaisesNmi := by
  intro s hl hc
  obtain ⟨t, ht⟩ := exec_next .step s
  have hv : t.vblank = true := by rw [exec_step_vblank ht, if_pos ⟨hl, hc⟩]
  have hstatus : t.regs.ppustatus = s.regs.ppustatus ||| 0x80 := by
    rw [exec_step_ppustatus ht, State.statusAfterEvents, if_pos ⟨hl, hc⟩]
  have hmask : ∀ k < 7, (0x80 : Byte).getLsbD k = false := by decide
  refine ⟨t, ht, hv, fun k hk => ?_, ?_⟩
  · rw [hstatus, BitVec.getLsbD_or, hmask k hk, Bool.or_false]
  · rw [State.nmi, hv, exec_step_nmiEnabled ht, Bool.true_and]

/-- Settles O14: at (1, -1) the status keeps its low five bits only, so VBLANK and nmi are 0. -/
theorem preRenderStepClearsFlags : Obligations.PreRenderStepClearsFlags := by
  intro s hl hc
  obtain ⟨t, ht⟩ := exec_next .step s
  have hstatus : t.regs.ppustatus = s.regs.ppustatus &&& 0x1F := by
    have hnot : ¬ (s.scanline = 241 ∧ s.cycle = 1) := by omega
    rw [exec_step_ppustatus ht, State.statusAfterEvents, if_neg hnot, if_pos ⟨hl, hc⟩]
  have hfields : ∀ f ∈ RegName.fields .ppustatus, t.field f = 0 := fun f hf => by
    rw [State.field, Field.reg_of_mem hf, State.value, Regs.get, hstatus]
    exact statusFields_cleared _ f hf
  have hv : t.field .vblank = 0 := hfields _ (by decide)
  have hmask : ∀ k < 5, (0x1F : Byte).getLsbD k = true := by decide
  refine ⟨t, ht, hv, hfields _ (by decide), hfields _ (by decide), fun k hk => ?_, ?_⟩
  · rw [hstatus, BitVec.getLsbD_and, hmask k hk, Bool.and_true]
  · rw [State.nmi, State.vblank, hv]; rfl

/-- Settles O15, from the laws of one STEP at a linear position. -/
theorem stepMovesTheLinearPosition : Obligations.StepMovesTheLinearPosition := by
  intro s hs
  obtain ⟨t, ht⟩ := exec_next .step s
  obtain ⟨hframe, hhist, -⟩ := exec_step_frame ht hs
  exact ⟨t, ht, exec_positionOk ht hs, exec_step_position ht hs, hframe, hhist⟩

/-- Settles O18: read after write in the frame buffer, at the pixel's index. -/
theorem plotWritesOneEntry : Obligations.PlotWritesOneEntry := by
  have hrow : unitRows[1] ∈ rows := List.mem_append_right _ (List.getElem_mem _)
  refine ⟨fun w h => decode_of_selects hrow (beq_iff_eq.mpr h), fun x y c s => ⟨fun hy hm => ?_, fun hy => ?_⟩⟩
  · rw [exec_plot]
    simp only [if_pos hy]
    exact ⟨_, rfl, rfl, fun a => Memory.read_write hm _ a c⟩
  · rw [exec_plot]
    simp only [if_neg (Nat.not_lt.mpr hy)]

/-- Settles O19: both rows lie below 0x2000, so each read is one read on the MAP port. -/
theorem tileUnpacksOnePixel : Obligations.TileUnpacksOnePixel := by
  have hrow : unitRows[2] ∈ rows := List.mem_append_right _ (List.getElem_mem _)
  refine ⟨fun w h => decode_of_selects hrow (beq_iff_eq.mpr h), fun t n r x s => ?_⟩
  obtain ⟨hlow, hhigh, hbound⟩ := tile_rows t n r
  have hlow' : (tileLow t n r).toNat ≤ 0x1FFF := by omega
  have hhigh' : (tileHigh t n r).toNat ≤ 0x1FFF := by omega
  have hfirst := s.answered_ppuRead (a := tileLow t n r) (by omega)
  have hsecond := (s.ppuRead (tileLow t n r)).answered_ppuRead (a := tileHigh t n r) (by omega)
  refine ⟨_, _, _, rfl, ?_, hbound, hfirst.trans hsecond⟩
  rw [colorIndex_eq, State.ppuRead_map _ hhigh', State.ppuRead_map s hlow']
  simp [State.respond, tileLow, tileHigh, tileBase]

end Sys2Proof.Machine

/-! PROOFS. The register bus of the PictureEngine (41_ppu_registers.md): the words of the RD and WR rows, each
register access as one update of the state, and the OAM-DMA copy. -/

namespace Sys2Proof.Machine

open Host (Outcome)

/-! ### Words of the register-bus rows (R204) -/

theorem RegName.writeRow_mem_rows (r : RegName) : r.writeRow ∈ rows := by
  have hr : r.writeRow ∈ writeRows := by
    rw [writeRows_eq]
    exact List.mem_map_of_mem (by cases r <;> decide)
  exact List.mem_append_left _ (List.mem_append_right _ hr)

/-- A word that matches the WR row of a register is that register's write of its D field. -/
theorem decode_writeWord (r : RegName) {w : Command} (h : w &&& r.writeRow.mask = r.writeRow.pattern) :
    decode w = .instr (r.write (w.extractLsb' 16 8)) :=
  decode_of_selects r.writeRow_mem_rows (beq_iff_eq.mpr h)

/-! ### Writes (R320 to R330) -/

/-- A plain write puts the byte into its register. -/
theorem writePlain_eq (r : RegName) (d : Byte) (s : State) :
    writePlain r d s = { s with regs := s.regs.put r d, result := .nothing } := by
  rw [writePlain, State.setValue_byte, State.respond]

/-- WR.DATA as one update (R328). -/
theorem exec_wrData (d : Byte) (s : State) :
    exec (.wrData d) s = .next
      { s with
        regs := s.regs.put .ppudata d
        history := s.history ++ writeEventsAt s.latch.address d
        latch.address := s.latch.address + if s.regs.ppuctrl.getLsbD 2 then 32 else 1
        result := .nothing } := by
  rw [exec, execWrData, State.setValue_byte, State.ppuWrite_eq, State.advanceLatch_eq]
  rfl

/-! ### Reads (R301 to R310) -/

/-- A PPU-space read records the read event of its range, or nothing, and besides takes answers at most. -/
theorem State.ppuRead_eq (s : State) (a : Addr) :
    s.ppuRead a =
      { s with
        history := s.history ++ readEventsAt a (s.ppuByte a)
        answers := (s.ppuRead a).answers
        draws := (s.ppuRead a).draws } := by
  by_cases ha : a.toNat < 0x4000
  · rw [(s.ppuRead_mapped ha).1]
  · obtain ⟨hread, -, hnone⟩ := s.ppuRead_unmapped (a := a) (by omega)
    rw [hread, hnone, List.append_nil]

/-- RD.DATA as one update (R308). -/
theorem exec_rdData (s : State) :
    exec .rdData s = .next
      { s with
        readBuffer := s.ppuByte s.latch.address
        latch.address := s.latch.address + if s.regs.ppuctrl.getLsbD 2 then 32 else 1
        history := s.history ++ readEventsAt s.latch.address (s.ppuByte s.latch.address)
        answers := (s.ppuRead s.latch.address).answers
        draws := (s.ppuRead s.latch.address).draws
        result := .u8 s.readBuffer } := by
  simp only [exec, execRdData, State.advanceLatch_eq]
  rw [State.ppuRead_eq s s.latch.address]
  rfl

/-! ### The OAM-DMA copy (R329) -/

/-- The cells the OAM-DMA stores: the bytes from index `o` on, around the end of OAM. -/
def dmaCells (o : Byte) (vs : List Byte) : List Host.Cell := vs.mapIdx fun i v => (dmaDest o i, v)

theorem dmaCells_index_lt {o : Byte} {vs : List Byte} {c : Host.Cell} (h : c ∈ dmaCells o vs) : c.1 < 256 := by
  obtain ⟨i, -, rfl⟩ := List.mem_mapIdx.mp h
  exact Nat.mod_lt _ (by decide)

theorem mem_dmaCells (o : Byte) {vs : List Byte} {i : Nat} (hi : i < vs.length) :
    (dmaDest o i, vs[i]) ∈ dmaCells o vs :=
  List.mem_mapIdx.mpr ⟨i, hi, rfl⟩

/-- 256 bytes in a row go to 256 different indexes. -/
theorem dmaCells_nodup (o : Byte) {vs : List Byte} (h : vs.length ≤ 256) : ((dmaCells o vs).map (·.1)).Nodup := by
  rw [List.nodup_iff_pairwise_ne, List.pairwise_iff_getElem]
  intro i j hi hj hij
  simp only [dmaCells, List.length_map, List.length_mapIdx] at hi hj
  simp only [dmaCells, List.getElem_map, List.getElem_mapIdx, dmaDest]
  omega

@[simp] theorem State.answered_respond {s t : State} {vs : List Byte} {r : Result} :
    s.Answered (t.respond r) vs ↔ s.Answered t vs := Iff.rfl

/-- WR.OAMDMA as one update: 256 answered reads in order, and their cells written into OAM. -/
theorem exec_wrOamdma (p : Byte) (s : State) :
    ∃ vs t, vs.length = 256 ∧ exec (.wrOamdma p) s = .next t ∧
      t = { s with
        regs := s.regs.put .oamdma p
        oam := (dmaCells s.regs.oamaddr vs).foldl (fun m c => Memory.write m c.1 c.2) s.oam
        history := s.history ++ vs.mapIdx fun i b => .prgRead (dmaSource p i) b
        answers := t.answers
        draws := t.draws
        result := .nothing } ∧
      s.Answered t vs := by
  obtain ⟨vs, m, hlen, hcopy, hans, hm⟩ := oamCopy_eq p 256 0 (s.setValue .oamdma p.toNat)
  simp only [Nat.zero_add] at hcopy hm
  refine ⟨vs, (oamCopy p 256 0 (s.setValue .oamdma p.toNat)).respond .nothing, hlen, ?_, ?_,
    State.answered_respond.mpr hans⟩
  · simp only [exec, execWrOamdma]
  · rw [hcopy, hm, State.setValue_byte]
    rfl

/-! ### The shared toggle (R326, R327) -/

theorem exec_scrollOrAddr_toggle {a : Bool} {d : Byte} {s t : State}
    (h : exec (if a then .wrAddr d else .wrScroll d) s = .next t) :
    t.latch.pendingHighByte = !s.latch.pendingHighByte := by
  cases a with
  | true => rw [if_pos rfl, exec_wrAddr] at h; cases h; rfl
  | false => rw [if_neg nofun, exec_wrScroll] at h; cases h; rfl

/-! ### The obligations -/

/-- Settles O33: the copy's cells have different indexes, all below 256, so each reads back and no other entry
changes. -/
theorem oamDmaCopiesAPage : Obligations.OamDmaCopiesAPage := by
  refine ⟨fun w h => decode_writeWord .oamdma h, fun p s hm => ?_⟩
  obtain ⟨vs, t, hlen, hexec, ht, hans⟩ := exec_wrOamdma p s
  obtain ⟨-, hother, hwritten⟩ := Memory.foldl_write (l := dmaCells s.regs.oamaddr vs) hm
  have hoam : t.oam = (dmaCells s.regs.oamaddr vs).foldl (fun m c => Memory.write m c.1 c.2) s.oam := by rw [ht]
  refine ⟨vs, t, hlen, hexec, ?_, hans, fun i hi => ?_, fun a ha => ?_⟩
  · rw [hoam]; exact ht
  · have hi' : i < vs.length := by omega
    have hread := hwritten (dmaCells_nodup _ hlen.le) _ (mem_dmaCells s.regs.oamaddr hi')
    rw [State.oamByte, hoam, List.getElem?_eq_getElem hi']
    exact congrArg some hread.symm
  · rw [State.oamByte, hoam]
    exact hother a fun c hc => by have := dmaCells_index_lt hc; omega

/-- Settles O21: the mask clears bit 7, which is VBLANK. -/
theorem statusReadEffect : Obligations.StatusReadEffect := by
  refine ⟨decode_read .ppustatus, fun s => ⟨_, exec_rdStatus s, rfl, ?_⟩⟩
  have hmask : (0x7F : Byte).getLsbD 7 = false := by decide
  rw [State.nmi, State.vblank_eq]
  simp only [Regs.put, BitVec.getLsbD_and, hmask, Bool.and_false, Bool.false_and]

/-- Settles O23: the latch address is below 0x4000 and one port answers, or none does. -/
theorem dataPortReadEffect : Obligations.DataPortReadEffect := by
  refine ⟨decode_read .ppudata, fun s => ⟨s.ppuByte s.latch.address, _, exec_rdData s, rfl, ?_, ?_⟩⟩
  · exact s.answered_ppuRead
  · intro ha
    obtain ⟨hread, hbyte, -⟩ := s.ppuRead_unmapped ha
    rw [hread]
    exact ⟨hbyte, State.Answered.refl s⟩

/-- Settles O24: only the RD.UNMAPPED row is left for such a word. -/
theorem unmappedReadEffect : Obligations.UnmappedReadEffect :=
  ⟨fun w h => (rowThatMatchesDecodes.2.1 w h).mpr, fun _ _ => rfl⟩

/-- Settles O25: nmi is the AND of the bits 7 of PPUSTATUS, which is kept, and of the byte written. -/
theorem controlWriteReevaluatesNmi : Obligations.ControlWriteReevaluatesNmi := by
  have hexec : ∀ (d : Byte) (s : State),
      exec (.wrCtrl d) s = .next { s with regs := s.regs.put .ppuctrl d, result := .nothing } :=
    fun d s => congrArg Outcome.next (writePlain_eq .ppuctrl d s)
  refine ⟨fun w h => decode_writeWord .ppuctrl h, hexec, fun d s t h => ?_⟩
  rw [hexec] at h; cases h
  rw [State.nmi, State.vblank_eq, State.nmiEnabled_eq, Regs.put]

/-- Settles O26: four plain writes. -/
theorem plainRegisterWrites : Obligations.PlainRegisterWrites :=
  ⟨fun _ h => decode_writeWord .ppumask h, fun d s => congrArg Outcome.next (writePlain_eq .ppumask d s),
   fun _ h => decode_writeWord .oamaddr h, fun d s => congrArg Outcome.next (writePlain_eq .oamaddr d s),
   fun _ h => decode_writeWord .dmcAddr h, fun d s => congrArg Outcome.next (writePlain_eq .dmcAddr d s),
   fun _ h => decode_writeWord .dmcLen h, fun d s => congrArg Outcome.next (writePlain_eq .dmcLen d s)⟩

/-- Settles O28: only the WR.UNMAPPED row is left for a write of an unmapped address. -/
theorem ignoredWrites : Obligations.IgnoredWrites :=
  ⟨fun _ h => decode_writeWord .ppustatus h, fun w h => (rowThatMatchesDecodes.2.2 w h).mpr, fun _ _ => rfl,
   fun _ _ _ => rfl⟩

/-- Settles O29: read after write in OAM, at index OAMADDR. -/
theorem oamDataWriteEffect : Obligations.OamDataWriteEffect :=
  ⟨fun _ h => decode_writeWord .oamdata h, fun d s hm =>
    ⟨_, exec_wrOamdata d s, rfl, fun a => Memory.read_write hm s.regs.oamaddr.toNat a d⟩⟩

/-- Settles O30: WR.SCROLL as one update. -/
theorem scrollWriteEffect : Obligations.ScrollWriteEffect :=
  ⟨fun _ h => decode_writeWord .ppuscroll h, exec_wrScroll⟩

/-- Settles O31, by cases on the toggle. -/
theorem addressWriteEffect : Obligations.AddressWriteEffect := by
  refine ⟨fun _ h => decode_writeWord .ppuaddr h, fun d s => ?_⟩
  rw [exec_wrAddr, BitVec.setWidth_eq_extractLsb' (by decide)]
  cases hp : s.latch.pendingHighByte <;> rfl

/-- Settles O32: WR.DATA as one update. -/
theorem dataPortWriteEffect : Obligations.DataPortWriteEffect :=
  ⟨fun _ h => decode_writeWord .ppudata h, exec_wrData⟩

/-- Settles O35, by induction on the writes: each flips the toggle. -/
theorem toggleIsShared : Obligations.ToggleIsShared := by
  intro ws
  induction ws with
  | nil => exact fun s => ⟨s, rfl, by simp⟩
  | cons w ws ih =>
    intro s
    obtain ⟨u, hu⟩ := exec_next (if w.1 then .wrAddr w.2 else .wrScroll w.2) s
    obtain ⟨t, ht, htoggle⟩ := ih u
    refine ⟨t, ?_, ?_⟩
    · simpa only [List.map_cons, execAll, hu] using ht
    · rw [htoggle, exec_scrollOrAddr_toggle hu, List.length_cons]
      have hparity : decide ((ws.length + 1) % 2 = 1) = !decide (ws.length % 2 = 1) := by
        rw [← decide_not, decide_eq_decide]; omega
      rw [hparity, Bool.not_xor, Bool.xor_not]

/-- Settles O20: the nine registers keep the default read. -/
theorem writeOnlyRegistersReadZero : Obligations.WriteOnlyRegistersReadZero := by
  intro p hp
  simp only [List.mem_cons, List.not_mem_nil, or_false] at hp
  obtain rfl | rfl | rfl | rfl | rfl | rfl | rfl | rfl | rfl := hp
  all_goals exact ⟨by decide, fun _ => rfl⟩

/-- Settles O22: OAM is read at index OAMADDR. -/
theorem oamDataReadEffect : Obligations.OamDataReadEffect := ⟨decode_read .oamdata, fun _ => rfl⟩

end Sys2Proof.Machine

/-! PROOFS. The SampleChannel (42_dpcm.md): each way a DUPD can go, a sample from its start to its end, the
latency of a stop, the bound on the output, and the commands around them. -/

namespace Sys2Proof.Machine

open Host (Outcome)

/-! ### DUPD, one lemma for each way it can go (R420) -/

/-- DUPD acts on a pending start as on the start applied (R416). -/
theorem exec_dupd_applyStart (s : State) : exec .dupd (applyStart s) = exec .dupd s := by
  have hidem : applyStart (applyStart s) = applyStart s := by
    cases hp : s.startPending with
    | true => rw [applyStart_pending hp]; exact applyStart_none rfl
    | false => rw [applyStart_none hp, applyStart_none hp]
  rw [exec, execDupd, hidem]
  rfl

theorem exec_dupd_idle {s : State} (hp : s.startPending = false) (ha : s.isActive = false) :
    exec .dupd s = .next { s with result := .nothing } := by
  rw [exec, execDupd, applyStart_none hp, channelTick_idle ha]
  rfl

section Active

variable {s : State} (hp : s.startPending = false) (ha : s.isActive = true)
include hp ha

theorem exec_dupd_count (hd : s.dividerCount + 1 < s.dividerPeriod) :
    exec .dupd s = .next { s with dividerCount := s.dividerCount + 1, result := .nothing } := by
  rw [exec, execDupd, applyStart_none hp, channelTick_count ha hd]
  rfl

theorem exec_dupd_elapsed (hd : s.dividerPeriod ≤ s.dividerCount + 1) :
    exec .dupd s = .next ((bitDecision { s with dividerCount := 0 }).respond .nothing) := by
  rw [exec, execDupd, applyStart_none hp, channelTick_elapsed ha hd]

theorem exec_dupd_play {b : Byte} (hd : s.dividerPeriod ≤ s.dividerCount + 1) (hb : s.buffer = some b)
    (h8 : s.cursorBit ≠ 8) :
    exec .dupd s = .next
      { s with
        dividerCount := 0
        output := if b.getLsbD s.cursorBit then s.output + 1 else s.output - 1
        cursorBit := s.cursorBit + 1
        result := .nothing } := by
  rw [exec_dupd_elapsed hp ha hd, bitDecision_play (s := { s with dividerCount := 0 }) hb h8]
  rfl

/-- The re-arm is of a natural end only: a DSTOP has put the cursor at the end already (R424). -/
theorem exec_dupd_complete (hd : s.dividerPeriod ≤ s.dividerCount + 1) (hn : s.buffer = none ∨ s.cursorBit = 8)
    (hc : s.sampleLength ≤ s.cursorByte + 1) :
    exec .dupd s = .next
      { s with
        dividerCount := 0
        cursorBit := 0
        cursorByte := s.sampleLength
        isActive := false
        buffer := none
        output := 0
        startPending := decide (s.cursorByte ≠ s.sampleLength) && s.regs.dmcCtrl.getLsbD 6
        result := .nothing } := by
  rw [exec_dupd_elapsed hp ha hd, bitDecision_complete (s := { s with dividerCount := 0 }) hn hc]
  simp only [State.respond, hp, Bool.if_false_right, Bool.decide_and, Bool.decide_eq_true, Bool.and_true]

theorem exec_dupd_fetch (hd : s.dividerPeriod ≤ s.dividerCount + 1) (hn : s.buffer = none ∨ s.cursorBit = 8)
    (hc : s.cursorByte + 1 < s.sampleLength) :
    ∃ v t, exec .dupd s = .next t ∧
      t = { s with
        dividerCount := 0
        cursorByte := s.cursorByte + 1
        cursorBit := 1
        buffer := some v
        output := if v.getLsbD 0 then s.output + 1 else s.output - 1
        history := s.history ++ [.prgRead (nextFetch s) v]
        answers := s.answers.drop 1
        draws := s.draws + (1 - s.answers.length)
        result := .nothing } ∧
      s.Answered t [v] := by
  obtain ⟨v, he, hans⟩ := bitDecision_fetch (s := { s with dividerCount := 0 }) hn hc
  exact ⟨v, _, exec_dupd_elapsed hp ha hd, congrArg (State.respond · .nothing) he, State.answered_respond.mpr hans⟩

end Active

/-! ### The bits of the byte held -/

/-- How many bits of the byte held are left to play; none without a byte. -/
def State.bitsLeft (s : State) : Nat :=
  match s.buffer with
  | some _ => 8 - s.cursorBit
  | none => 0

theorem State.bitsLeft_held {s : State} {b : Byte} (h : s.buffer = some b) : s.bitsLeft = 8 - s.cursorBit := by
  rw [State.bitsLeft, h]

theorem State.bitsLeft_done {s : State} (h : s.buffer = none ∨ s.cursorBit = 8) : s.bitsLeft = 0 := by
  obtain hn | h8 := h
  · rw [State.bitsLeft, hn]
  · rw [State.bitsLeft, h8]
    cases s.buffer <;> rfl

/-! ### A sample from its start on, counted in bits -/

/-- The bytes a start pending in `s` plays: the sample, after the stale byte if one is held (D30). -/
def State.playbackBytes (s : State) : Nat := startLength (s.value .dmcLen) + s.buffer.toList.length

/-- The read of byte `k` of the sample a start pending in `s` plays (R421). -/
def State.sampleRead (s : State) (k : Nat) (v : Byte) : Event :=
  .prgRead (BitVec.ofInt 16 (fetchAddr (0xC000 + s.regs.dmcAddr.toNat * 64) k)) v

/-- `t` is a state of the channel in which `j` bits have been played since the start pending in `s` was applied
and the sample bytes `vs` have been fetched. -/
structure State.Played (s : State) (j : Nat) (vs : List Byte) (t : State) : Prop where
  active : t.isActive = true
  started : t.startPending = false
  regs : t.regs = s.regs
  period : t.dividerPeriod = s.ratePeriod
  address : t.sampleAddress = startAddress (s.value .dmcAddr)
  length : t.sampleLength = startLength (s.value .dmcLen)
  cursorBit : t.cursorBit ≤ 8
  playing : 0 < j → t.buffer.isSome = true ∧ 1 ≤ t.cursorBit
  fetched : vs.length ≤ t.sampleLength
  cursorByte : t.cursorByte = vs.length - 1
  /-- The bits played and those left are the bits of the stale byte and of the bytes fetched. -/
  bits : j + t.bitsLeft = 8 * (vs.length + s.buffer.toList.length)
  history : t.history = s.history ++ vs.mapIdx s.sampleRead
  answered : s.Answered t vs

theorem State.played_applyStart {s : State} (hp : s.startPending = true) : s.Played 0 [] (applyStart s) := by
  rw [applyStart_pending hp]
  exact
    { active := rfl, started := rfl, regs := rfl, period := rfl, address := rfl, length := rfl
      cursorBit := Nat.zero_le _
      playing := nofun
      fetched := Nat.zero_le _
      cursorByte := rfl
      bits := by rw [State.bitsLeft]; cases s.buffer <;> rfl
      history := (List.append_nil _).symm
      answered := State.Answered.refl s }

section Played

variable {s t u : State} {j : Nat} {vs : List Byte}

/-- The next byte of the sample is fetched from its own address. -/
theorem State.Played.fetch_event (h : s.Played j vs t) (v : Byte) :
    .prgRead (nextFetch t) v = s.sampleRead vs.length v := by
  have haddr := (s.value .dmcAddr).isLt
  have hstart : (startAddress (s.value .dmcAddr)).toNat = 0xC000 + (s.value .dmcAddr).toNat * 64 := by
    simp only [startAddress, BitVec.toNat_ofNat]; omega
  rw [nextFetch, State.sampleRead, h.address, hstart, h.cursorByte, sub_add_cancel]
  rfl

/-- While bits of the sample are left, a DUPD whose divider elapses plays one: of the byte held, or of the next
byte, which it fetches. -/
theorem State.Played.bit (h : s.Played j vs t) (hj : j < 8 * s.playbackBytes)
    (hd : t.dividerPeriod ≤ t.dividerCount + 1) (hu : exec .dupd t = .next u) :
    (∃ ws, s.Played (j + 1) ws u) ∧ u.dividerCount = 0 := by
  have hbits := h.bits
  have hbit := h.cursorBit
  have hcursor := h.cursorByte
  have hlen := h.length
  unfold State.playbackBytes at hj
  obtain ⟨b, hb, h8⟩ | ⟨hn, hc⟩ | ⟨hn, hc⟩ := t.bitDecision_split
  · rw [exec_dupd_play h.started h.active hd hb h8] at hu
    cases hu
    rw [State.bitsLeft_held hb] at hbits
    refine ⟨⟨vs, { h with cursorBit := ?_, playing := fun _ => ⟨?_, ?_⟩, bits := ?_ }⟩, rfl⟩
    · dsimp only; omega
    · dsimp only; rw [hb]; rfl
    · exact Nat.le_add_left ..
    · simp only [State.bitsLeft, hb]; omega
  · rw [State.bitsLeft_done hn] at hbits
    omega
  · rw [State.bitsLeft_done hn] at hbits
    obtain ⟨v, u', hu', rfl, hans⟩ := exec_dupd_fetch h.started h.active hd hn hc
    cases hu'.symm.trans hu
    have hsucc : (vs ++ [v]).length = vs.length + 1 := List.length_append
    refine ⟨⟨vs ++ [v], { h with
      cursorBit := Nat.one_le_ofNat
      playing := fun _ => ⟨rfl, le_refl _⟩
      fetched := ?_, cursorByte := ?_, bits := ?_, history := ?_
      answered := h.answered.trans hans }⟩, rfl⟩
    · rw [hsucc]; dsimp only; omega
    · rw [hsucc]; dsimp only; omega
    · rw [hsucc]; simp only [State.bitsLeft]; omega
    · dsimp only
      rw [List.mapIdx_concat, ← h.fetch_event v, h.history, List.append_assoc]

/-- The byte begun and its bit, once a bit was played. -/
theorem State.Played.cursors (h : s.Played (j + 1) vs t) :
    vs.length + s.buffer.toList.length = j / 8 + 1 ∧
      t.cursorByte = (j / 8 : Nat) - (s.buffer.toList.length : Int) ∧ t.cursorBit = j % 8 + 1 := by
  obtain ⟨hheld, h1⟩ := h.playing j.succ_pos
  obtain ⟨b, hb⟩ := Option.isSome_iff_exists.mp hheld
  have hbits := h.bits
  have hbit := h.cursorBit
  rw [State.bitsLeft_held hb] at hbits
  rw [h.cursorByte]
  omega

/-- Once every bit was played, no bit is left of the last byte, which is the last of the sample. -/
theorem State.Played.ended (h : s.Played (8 * s.playbackBytes) vs t) :
    (t.buffer = none ∨ t.cursorBit = 8) ∧ t.cursorByte + 1 = t.sampleLength := by
  have hbits := h.bits
  have hbit := h.cursorBit
  have hcursor := h.cursorByte
  have hlen := h.length
  have hfetched := h.fetched
  unfold State.playbackBytes at hbits
  obtain ⟨b, hb, h8⟩ | ⟨hn, hc⟩ | ⟨hn, hc⟩ := t.bitDecision_split
  · rw [State.bitsLeft_held hb] at hbits
    omega
  · exact ⟨hn, by omega⟩
  · rw [State.bitsLeft_done hn] at hbits
    omega

end Played

/-! ### A sample from its start on, counted in DUPDs -/

/-- `t` stands where `k` DUPDs lead from the start pending in `s`, applied: a start lets the divider elapse at
once, as if `ratePeriod` DUPDs had gone before. -/
def State.Playing (s : State) (k : Nat) (t : State) : Prop :=
  ∃ j vs, s.Played j vs t ∧ t.dividerCount < s.ratePeriod ∧
    k + s.ratePeriod = s.ratePeriod * j + t.dividerCount + 1

theorem State.playing_applyStart {s : State} (hp : s.startPending = true) : s.Playing 0 (applyStart s) := by
  have hr := s.ratePeriod_range.1
  refine ⟨0, [], State.played_applyStart hp, ?_⟩
  rw [applyStart_pending hp]
  dsimp only
  omega

theorem State.Playing.dupd {s t u : State} {k : Nat} (h : s.Playing k t)
    (hk : k < 8 * s.playbackBytes * s.ratePeriod) (hu : exec .dupd t = .next u) : s.Playing (k + 1) u := by
  obtain ⟨j, vs, hj, hlt, hcount⟩ := h
  by_cases hd : t.dividerCount + 1 < s.ratePeriod
  · rw [exec_dupd_count hj.started hj.active (hj.period ▸ hd)] at hu
    cases hu
    exact ⟨j, vs, { hj with }, hd, by dsimp only; omega⟩
  · have hkj : k = s.ratePeriod * j := by omega
    have hbits : j < 8 * s.playbackBytes := by
      rw [hkj, Nat.mul_comm] at hk
      exact Nat.lt_of_mul_lt_mul_right hk
    obtain ⟨⟨ws, hws⟩, hzero⟩ := hj.bit hbits (by rw [hj.period]; omega) hu
    refine ⟨j + 1, ws, hws, ?_, ?_⟩
    · rw [hzero]; omega
    · rw [hzero, Nat.mul_succ]; omega

/-- Any number of DUPDs from the start applied, up to the end of the sample. -/
theorem State.playing_repeat {s : State} (hp : s.startPending = true) (k : Nat) :
    ∃ t, repeatExec .dupd k (applyStart s) = .next t ∧ (k ≤ 8 * s.playbackBytes * s.ratePeriod → s.Playing k t) :=
  repeatExec_induction (P := fun k t => k ≤ 8 * s.playbackBytes * s.ratePeriod → s.Playing k t)
    (fun _ => State.playing_applyStart hp) (fun _ _ _ ih hu hk => (ih (Nat.le_of_lt hk)).dupd hk hu) k

/-- At least one DUPD from a pending start is as many from the start applied. -/
theorem repeatExec_dupd_applyStart (s : State) (k : Nat) :
    repeatExec .dupd (k + 1) (applyStart s) = repeatExec .dupd (k + 1) s := by
  simp only [repeatExec, List.replicate_succ, execAll, exec_dupd_applyStart]

/-- The bits played and the divider, by quotient and remainder of the count of DUPDs. -/
theorem State.Playing.counts {s t : State} {k : Nat} (h : s.Playing k t) :
    ∃ vs, s.Played ((k + s.ratePeriod - 1) / s.ratePeriod) vs t ∧
      t.dividerCount = (k + s.ratePeriod - 1) % s.ratePeriod := by
  obtain ⟨j, vs, hj, hlt, hcount⟩ := h
  have hsum : t.dividerCount + s.ratePeriod * j = k + s.ratePeriod - 1 := by omega
  obtain ⟨hdiv, hmod⟩ := (Nat.div_mod_unique s.ratePeriod_range.1).mpr ⟨hsum, hlt⟩
  exact ⟨vs, hdiv.symm ▸ hj, hmod.symm⟩

/-- When the bit time of the last bit is over, every bit was played and the divider is about to elapse. -/
theorem State.Playing.last {s t : State} (h : s.Playing (8 * s.playbackBytes * s.ratePeriod) t) :
    ∃ vs, s.Played (8 * s.playbackBytes) vs t ∧ t.dividerPeriod ≤ t.dividerCount + 1 := by
  have hr := s.ratePeriod_range.1
  have hsum : s.ratePeriod - 1 + s.ratePeriod * (8 * s.playbackBytes) =
      8 * s.playbackBytes * s.ratePeriod + s.ratePeriod - 1 := by
    rw [Nat.mul_comm s.ratePeriod]; omega
  obtain ⟨hdiv, hmod⟩ := (Nat.div_mod_unique hr).mpr ⟨hsum, Nat.sub_one_lt_of_lt hr⟩
  obtain ⟨vs, hplayed, hdivider⟩ := h.counts
  rw [hdiv] at hplayed
  rw [hmod] at hdivider
  exact ⟨vs, hplayed, by rw [hplayed.period]; omega⟩

/-- The period a start takes is the entry of the table at the low four bits of DMC_CTRL (R401). -/
theorem State.ratePeriod_eq (s : State) :
    s.ratePeriod = (s.params.periods.get (Fin.ofNat 16 (s.regs.dmcCtrl.toNat % 16))).val := by
  rw [State.ratePeriod, State.rate_eq]

/-! ### A stop (70_reset_and_hazards.md section 3) -/

/-- How many DUPDs the channel needs to be done with the byte held: the one in which its last bit time is over. -/
def State.ticksLeft (s : State) : Nat := s.bitsLeft * s.dividerPeriod + (s.dividerPeriod - s.dividerCount)

/-- An active channel that a DSTOP has put at the end of its sample. -/
structure State.Stopping (s : State) : Prop where
  channelOk : s.ChannelOk
  active : s.isActive = true
  started : s.startPending = false
  cursorByte : s.cursorByte = s.sampleLength

/-- At most 7 bits of the byte held are left, since one was played. -/
theorem State.Stopping.ticksLeft_range {s : State} (h : s.Stopping) :
    1 ≤ s.ticksLeft ∧ s.ticksLeft ≤ 8 * s.dividerPeriod := by
  obtain ⟨hheld, h1⟩ := h.channelOk.playing h.active
  obtain ⟨b, hb⟩ := Option.isSome_iff_exists.mp hheld
  have hlt := h.channelOk.divider h.active
  have hbits : s.bitsLeft ≤ 7 := by rw [State.bitsLeft_held hb]; omega
  have hmul := Nat.mul_le_mul_right s.dividerPeriod hbits
  unfold State.ticksLeft
  omega

/-- A DUPD counts down to the end of the byte held, and completes the sample there, with no re-arm. -/
theorem State.Stopping.dupd {s t : State} (h : s.Stopping) (ht : exec .dupd s = .next t) :
    (t.Stopping ∧ t.ticksLeft + 1 = s.ticksLeft) ∨
    (s.ticksLeft = 1 ∧ t.isActive = false ∧ t.startPending = false) := by
  have hok := exec_channelOk ht h.channelOk
  have hlt := h.channelOk.divider h.active
  have hcursor := h.cursorByte
  by_cases hd : s.dividerCount + 1 < s.dividerPeriod
  · rw [exec_dupd_count h.started h.active hd] at ht
    cases ht
    refine .inl ⟨{ h with channelOk := hok }, ?_⟩
    simp only [State.ticksLeft, State.bitsLeft]
    omega
  · have hlast : s.dividerPeriod - s.dividerCount = 1 := by omega
    obtain ⟨b, hb, h8⟩ | ⟨hn, hc⟩ | ⟨hn, hc⟩ := s.bitDecision_split
    · have hbit := h.channelOk.cursorBit
      rw [exec_dupd_play h.started h.active (by omega) hb h8] at ht
      cases ht
      refine .inl ⟨{ h with channelOk := hok }, ?_⟩
      have hleft : 8 - s.cursorBit = 8 - (s.cursorBit + 1) + 1 := by omega
      simp only [State.ticksLeft, State.bitsLeft, hb]
      rw [hleft, Nat.succ_mul]
      omega
    · rw [exec_dupd_complete h.started h.active (by omega) hn hc] at ht
      cases ht
      refine .inr ⟨?_, rfl, ?_⟩
      · rw [State.ticksLeft, State.bitsLeft_done hn]; omega
      · dsimp only; rw [decide_eq_false (not_not.mpr hcursor), Bool.false_and]
    · omega

/-- While the byte held is not over, the DUPDs since the stop and those left make up the latency. -/
theorem State.Stopping.repeat_dupd {s : State} (h : s.Stopping) (k : Nat) :
    ∃ t, repeatExec .dupd k s = .next t ∧ (k < s.ticksLeft → t.Stopping ∧ t.ticksLeft + k = s.ticksLeft) := by
  refine repeatExec_induction (P := fun k t => k < s.ticksLeft → t.Stopping ∧ t.ticksLeft + k = s.ticksLeft)
    (fun _ => ⟨h, rfl⟩) (fun k t u ih hu hk => ?_) k
  obtain ⟨hstop, hleft⟩ := ih (Nat.lt_of_succ_lt hk)
  obtain ⟨hnext, hcount⟩ | ⟨hone, -, -⟩ := hstop.dupd hu
  · exact ⟨hnext, by omega⟩
  · omega

/-! ### The bound on the output (R97) -/

/-- A run of at least one step that answers a next state takes its first step. -/
theorem run_succ_next {n : Nat} {s t : State} (h : Host.Core.run Sys2Proof.core (n + 1) s = .next t) :
    ∃ u, step s = .next u ∧ Host.Core.run Sys2Proof.core n u = .next t := by
  simp only [Host.Core.run, Sys2Proof.core] at h
  cases hu : step s with
  | next u => exact ⟨u, rfl, by rw [hu] at h; exact h⟩
  | fault r => rw [hu] at h; cases h
  | refused r => rw [hu] at h; cases h

/-- Every run keeps the invariant. -/
theorem run_inv {n : Nat} {s t : State} (h : Host.Core.run Sys2Proof.core n s = .next t) (hi : s.Inv) : t.Inv := by
  induction n generalizing s with
  | zero => cases h; exact hi
  | succ n ih =>
    obtain ⟨u, hu, hrest⟩ := run_succ_next h
    exact ih hrest (step_inv hu hi)

/-- 8 steps of the accumulator for each of at most 4081 bytes and a stale one. -/
theorem State.ChannelOk.output_le {s : State} (h : s.ChannelOk) : |s.output| ≤ 32656 := by
  have hout := h.output
  have hlen := h.length
  have hbit := h.cursorBit
  omega

/-! ### The other commands (R415, R418, R440) -/

theorem exec_dstart (s : State) : exec .dstart s = .next { s with startPending := true, result := .nothing } := rfl

theorem exec_dstop (s : State) : exec .dstop s = .next { s with cursorByte := s.sampleLength, result := .nothing } :=
  rfl

/-- The count of DREM lies in 0..4082 (R440). -/
theorem State.ChannelOk.remainingBytes_range {s : State} (h : s.ChannelOk) :
    0 ≤ remainingBytes s ∧ remainingBytes s ≤ 4082 := by
  have hlow := h.cursorLow
  have hhigh := h.cursorHigh
  have hlen := h.length
  unfold remainingBytes
  split_ifs <;> omega

/-! ### DUPD does not read the last result -/

theorem bitDecision_fetchByte {s : State} (hn : s.buffer = none ∨ s.cursorBit = 8)
    (hc : s.cursorByte + 1 < s.sampleLength) : bitDecision s = playBit (fetchByte { s with cursorBit := 0 }) := by
  rw [bitDecision, if_pos hn]
  exact if_neg (not_le.mpr hc)

theorem bitDecision_respond (s : State) (r : Result) : bitDecision (s.respond r) = (bitDecision s).respond r := by
  obtain ⟨b, hb, h8⟩ | ⟨hn, hc⟩ | ⟨hn, hc⟩ := s.bitDecision_split
  · rw [bitDecision_play hb h8, bitDecision_play (s := s.respond r) hb h8]; rfl
  · rw [bitDecision_complete hn hc, bitDecision_complete (s := s.respond r) hn hc]; rfl
  · rw [bitDecision_fetchByte hn hc, bitDecision_fetchByte (s := s.respond r) hn hc, playBit_some rfl,
      playBit_some rfl, fetchByte, fetchByte, State.portRead_eq, State.portRead_eq]
    rfl

/-- DUPD with a start pending overwrites what a DSTOP wrote: the cursor and the result (R416). -/
theorem exec_dupd_pending {s : State} (hp : s.startPending = true) (c : Int) (r : Result) :
    exec .dupd { s with cursorByte := c, result := r } = exec .dupd s := by
  have hstart : applyStart { s with cursorByte := c, result := r } = (applyStart s).respond r := by
    rw [applyStart_pending hp]
    exact applyStart_pending (s := { s with cursorByte := c, result := r }) hp
  rw [exec, exec, execDupd, execDupd, channelTick_applyStart hp,
    channelTick_applyStart (s := { s with cursorByte := c, result := r }) hp, hstart]
  have hdecide := bitDecision_respond { applyStart s with dividerCount := 0 } r
  exact (congrArg (fun t : State => Outcome.next (t.respond .nothing)) hdecide :)

/-! ### The obligations -/

/-- Settles O42: an invariant of the count of DUPDs since the start. -/
theorem samplePlaybackSchedule : Obligations.SamplePlaybackSchedule := by
  intro s hp P L e hP hL he
  rw [← State.ratePeriod_eq] at hP
  have hN : 8 * (L + e) * P = 8 * s.playbackBytes * s.ratePeriod := by rw [hP, hL, he]; rfl
  rw [hN]
  refine ⟨fun n h1 hn => ?_, ?_⟩
  · obtain ⟨m, rfl⟩ := Nat.exists_eq_add_of_le' h1
    obtain ⟨t, ht, hplay⟩ := State.playing_repeat hp (m + 1)
    obtain ⟨vs, hplayed, hdivider⟩ := (hplay hn).counts
    rw [repeatExec_dupd_applyStart] at ht
    rw [Nat.add_right_comm, Nat.add_sub_cancel, Nat.add_div_right _ s.ratePeriod_range.1] at hplayed
    rw [Nat.add_right_comm, Nat.add_sub_cancel, Nat.add_mod_right] at hdivider
    obtain ⟨hfetched, hbyte, hbit⟩ := hplayed.cursors
    rw [Nat.add_sub_cancel, hP, hL, he]
    exact ⟨t, vs, ht, hplayed.active, hplayed.started, hplayed.period, hdivider, hplayed.length, hbyte, hbit,
      hfetched, hplayed.history, hplayed.answered⟩
  · obtain ⟨t, ht, hplay⟩ := State.playing_repeat hp (8 * s.playbackBytes * s.ratePeriod)
    obtain ⟨vs, hlast, hd⟩ := (hplay le_rfl).last
    obtain ⟨hn, hc⟩ := hlast.ended
    have hu := repeatExec_succ ht (exec_dupd_complete hlast.started hlast.active hd hn hc.ge)
    rw [repeatExec_dupd_applyStart] at hu
    have hloop : (decide (t.cursorByte ≠ t.sampleLength) && t.regs.dmcCtrl.getLsbD 6) =
        s.regs.dmcCtrl.getLsbD 6 := by
      rw [hlast.regs, decide_eq_true (by omega : t.cursorByte ≠ t.sampleLength), Bool.true_and]
    refine ⟨_, (Nat.add_comm 1 _) ▸ hu, rfl, rfl, rfl, ?_, rfl, rfl, hloop⟩
    dsimp only
    rw [hlast.length, hL]
    rfl

/-- Settles O43: the latency is what is left of the byte held. -/
theorem stopLatency : Obligations.StopLatency := by
  intro s hok ha hp hc
  have h : s.Stopping := ⟨hok, ha, hp, hc⟩
  obtain ⟨hlow, hhigh⟩ := h.ticksLeft_range
  refine ⟨s.ticksLeft, hlow, hhigh, fun k hk => ?_, ?_⟩
  · obtain ⟨t, ht, hstop⟩ := h.repeat_dupd k
    exact ⟨t, ht, (hstop hk).1.active⟩
  · obtain ⟨t, ht, hstop⟩ := h.repeat_dupd (s.ticksLeft - 1)
    obtain ⟨hstop, hleft⟩ := hstop (by omega)
    obtain ⟨u, hu⟩ := exec_next .dupd t
    have hrun := repeatExec_succ ht hu
    rw [Nat.sub_add_cancel hlow] at hrun
    obtain ⟨hnext, hcount⟩ | ⟨-, hidle, hpending⟩ := hstop.dupd hu
    · have hmore := hnext.ticksLeft_range.1
      omega
    · exact ⟨u, hrun, hidle, hpending⟩

/-- Settles O49: the bound follows from the invariant, which every run keeps. -/
theorem outputStaysBounded : Obligations.OutputStaysBounded := fun _ _ _ hi h => (run_inv h hi).channel.output_le

/-- Settles O27: a plain write; RATE and LOOP are views of the register. -/
theorem sampleControlWrite : Obligations.SampleControlWrite := by
  have hexec : ∀ (d : Byte) (s : State),
      exec (.wrDmcCtrl d) s = .next { s with regs := s.regs.put .dmcCtrl d, result := .nothing } :=
    fun d s => congrArg Outcome.next (writePlain_eq .dmcCtrl d s)
  refine ⟨fun w h => decode_writeWord .dmcCtrl h, hexec, fun d s t h => ?_⟩
  rw [hexec] at h; cases h
  exact ⟨State.rate_eq _, State.loop_eq _, rfl⟩

/-- Settles O39: a count in 0..4082 fits in 32 bits. -/
theorem remainingBytesAnswer : Obligations.RemainingBytes := by
  refine ⟨decode_encode (i := .drem) rfl, fun s => ⟨_, rfl, fun h => ?_⟩⟩
  obtain ⟨hlow, hhigh⟩ := h.remainingBytes_range
  rw [BitVec.toNat_ofInt]
  exact ⟨by rw [← remainingBytes]; omega, by omega⟩

/-- Settles O40: the ways a DUPD can go. -/
theorem updateOneAudioCycle : Obligations.UpdateOneAudioCycle := by
  refine ⟨decode_encode (i := .dupd) rfl, fun s hp => ?_, fun s hp => ⟨exec_dupd_idle hp, exec_dupd_count hp,
    fun ha hd => ⟨fun b => exec_dupd_play hp ha hd, exec_dupd_complete hp ha hd, fun hn hc => ?_⟩⟩⟩
  · rw [← exec_dupd_applyStart, applyStart_pending hp, State.ratePeriod_eq]
    rfl
  · obtain ⟨v, t, ht, rfl, hans⟩ := exec_dupd_fetch hp ha hd hn hc
    exact ⟨v, _, ht, rfl, hans⟩

/-- Settles O44: the start puts the cursor back, whatever the DSTOP wrote there. -/
theorem stopBeforeTheStartIsLost : Obligations.StopBeforeTheStartIsLost := by
  refine ⟨fun s hp => ?_, fun s => ?_⟩
  · have hlost := exec_dupd_pending hp s.sampleLength .nothing
    simp only [execAll, exec_dstop, hlost]
  · have hlost := exec_dupd_pending (s := { s with startPending := true, result := .nothing }) rfl s.sampleLength
      .nothing
    simp only [execAll, exec_dstop, exec_dstart, hlost]

/-- Settles O37: DSTART as one update, whose second run writes what is there. -/
theorem startArms : Obligations.StartArms := ⟨decode_encode (i := .dstart) rfl, exec_dstart, fun _ => rfl⟩

/-- Settles O38: nothing remains of a sample whose cursor is at its length. -/
theorem stopForcesCompletion : Obligations.StopForcesCompletion := by
  refine ⟨decode_encode (i := .dstop) rfl, exec_dstop, fun s => ?_⟩
  have hzero : remainingBytes { s with cursorByte := s.sampleLength, result := .nothing } = 0 := by
    unfold remainingBytes
    split_ifs
    · exact sub_self _
    · rfl
  simp only [execAll, exec, execDstop, execDrem, State.respond, hzero]
  rfl

/-- Settles O41: the two vectors by evaluation, the range of a wrapped address by the remainder. -/
theorem fetchAddressWraps : Obligations.FetchAddressWraps := by
  refine ⟨fun _ _ => rfl, by decide, by decide, fun sa cb _ _ _ _ hwrap => ?_⟩
  rw [fetchAddr, if_pos hwrap]
  omega

end Sys2Proof.Machine

/-! PROOFS. Exceptions (60_exceptions.md): what raises a fault and what a fault stops, and which commands move the
level `nmi`. -/

namespace Sys2Proof.Machine

open Host (Outcome)

/-! ### What raises a fault (R450, R451, R453) -/

/-- A step that accepts an ILLEGAL word raises its fault and does nothing else. -/
theorem step_of_accept_illegal {s t : State} {w : Command} {why : Illegal} (hf : s.fault = none)
    (ha : s.accept = some (w, t)) (hd : decode w = .illegal why) : step s = .next (t.raise (.illegalCommand w)) := by
  simp only [step, hf, ha, hd]

/-- PLOT with the row out of range only raises its fault. -/
theorem exec_plot_outOfRange {x y : Byte} (hy : 240 ≤ y.toNat) (c : Pixel) (s : State) :
    exec (.plot x y c) s = .next (s.raise (.plotOutOfRange (encode (.plot x y c)) x y)) := by
  simp only [exec_plot, if_neg (Nat.not_lt.mpr hy)]; rfl

@[simp] theorem State.ppuRead_fault (s : State) (a : Addr) : (s.ppuRead a).fault = s.fault := by
  rw [State.ppuRead_eq]

/-- Every command but a PLOT out of range keeps the fault. -/
theorem exec_fault {i : Instr} {s t : State} (h : exec i s = .next t) :
    t.fault = s.fault ∨ ∃ x y c, i = .plot x y c ∧ 240 ≤ y.toNat := by
  cases i with
  | plot x y c =>
    by_cases hy : y.toNat < 240
    · rw [exec_plot] at h; cases h; exact .inl (if_pos hy)
    · exact .inr ⟨x, y, c, rfl, Nat.not_lt.mp hy⟩
  | step => rw [exec_step] at h; cases h; exact .inl rfl
  | tile => cases h; simp
  | rdData => rw [exec_rdData] at h; cases h; exact .inl rfl
  | wrData => rw [exec_wrData] at h; cases h; exact .inl rfl
  | wrScroll => rw [exec_wrScroll] at h; cases h; exact .inl rfl
  | wrOamdma d =>
    obtain ⟨_, u, -, hu, hupdate, -⟩ := exec_wrOamdma d s
    rw [hu] at h; cases h
    exact .inl (by rw [hupdate])
  | dupd => exact .inl (congrArg PicturePart.fault (exec_picturePart h rfl))
  | _ => cases h; exact .inl rfl

/-! ### What moves `nmi` (R100, R460, R528) -/

/-- A command that may write neither PPUSTATUS nor PPUCTRL keeps `nmi`. -/
theorem exec_nmi_of_not_mayWrite {i : Instr} {s t : State} (h : exec i s = .next t)
    (hs : mayWrite i .ppustatus = false) (hc : mayWrite i .ppuctrl = false) : t.nmi = s.nmi :=
  State.nmi_congr (exec_value h hs) (exec_value h hc)

theorem exec_step_nmi {s t : State} (h : exec .step s = .next t) :
    t.nmi =
      if s.scanline = 241 ∧ s.cycle = 1 then s.nmiEnabled
      else if s.scanline = -1 ∧ s.cycle = 1 then false
      else s.nmi := by
  rw [State.nmi, exec_step_vblank h, exec_step_nmiEnabled h]
  split_ifs
  · exact Bool.true_and _
  · exact Bool.false_and _
  · rfl

theorem exec_rdStatus_nmi {s t : State} (h : exec .rdStatus s = .next t) : t.nmi = false := by
  obtain ⟨u, hu, -, hlow⟩ := statusReadEffect.2 s
  rw [hu] at h; cases h; exact hlow

theorem exec_wrCtrl_nmi {d : Byte} {s t : State} (h : exec (.wrCtrl d) s = .next t) :
    t.nmi = (s.vblank && d.getLsbD 7) := by
  rw [State.vblank_eq]; exact controlWriteReevaluatesNmi.2.2 d s t h

theorem exec_reset_nmi {s t : State} (h : exec .reset s = .next t) : t.nmi = false := by
  have hzero : State.reset.nmi = false := by decide
  rw [exec_reset] at h; cases h
  exact (State.nmi_congr (s := State.reset) rfl rfl).trans hzero

/-- What a command can do to `nmi`: keep it, set it to NMI_EN at the VBlank set, clear it, or re-evaluate it for
the NMI_EN written. -/
theorem exec_nmi_cases {i : Instr} {s t : State} (h : exec i s = .next t) :
    t.nmi = s.nmi ∨
    (i = .step ∧ s.scanline = 241 ∧ s.cycle = 1) ∧ t.nmi = s.nmiEnabled ∨
    (i = .rdStatus ∨ (i = .step ∧ s.scanline = -1 ∧ s.cycle = 1) ∨ i = .reset) ∧ t.nmi = false ∨
    ∃ d, i = .wrCtrl d ∧ t.nmi = (s.vblank && d.getLsbD 7) := by
  cases i with
  | rdStatus => exact .inr (.inr (.inl ⟨.inl rfl, exec_rdStatus_nmi h⟩))
  | reset => exact .inr (.inr (.inl ⟨.inr (.inr rfl), exec_reset_nmi h⟩))
  | wrCtrl d => exact .inr (.inr (.inr ⟨d, rfl, exec_wrCtrl_nmi h⟩))
  | step =>
    have hnmi := exec_step_nmi h
    split_ifs at hnmi with hset hclear
    · exact .inr (.inl ⟨⟨rfl, hset⟩, hnmi⟩)
    · exact .inr (.inr (.inl ⟨.inr (.inl ⟨rfl, hclear⟩), hnmi⟩))
    · exact .inl hnmi
  | _ => exact .inl (exec_nmi_of_not_mayWrite h rfl rfl)

/-! ### The obligations -/

/-- Settles O8: such a word is not legal, so the decoder rejects it. -/
theorem illegalCommandFaults : Obligations.IllegalCommandFaults := by
  intro s w rest hf hc hw
  obtain ⟨why, hd⟩ := (illegalWordsExactly w).1.mpr hw
  exact step_of_accept_illegal hf (State.accept_cons hc) hd

/-- Settles O9: a word that decodes to an instruction is that instruction's encoding, which the fault records. -/
theorem plotOutOfRangeFaults : Obligations.PlotOutOfRangeFaults := by
  intro s w rest x y c hf hc hd hy
  obtain ⟨-, hword⟩ := (decode_eq_instr_iff w _).mp hd
  rw [step_of_accept_instr hf (State.accept_cons hc) hd, exec_plot_outOfRange hy, hword]; rfl

/-- Settles O10, by the ways a step can go: of the instructions only a PLOT out of range changes the fault. -/
theorem faultsHaveOnlyTheirTwoCauses : Obligations.FaultsHaveOnlyTheirTwoCauses := by
  intro s t f hf h ht
  obtain ⟨-, ⟨-, rfl⟩ | ⟨w, rest, i, hc, hd, he⟩ | ⟨w, rest, why, hc, hd, rfl⟩⟩ := step_next h
  · cases hf.symm.trans ht
  · obtain hk | ⟨x, y, c, rfl, hy⟩ := exec_fault he
    · cases (hk.trans hf).symm.trans ht
    · have hstep := plotOutOfRangeFaults s w rest x y c hf hc hd hy
      rw [h] at hstep; cases hstep; cases ht
      exact ⟨w, rest, hc, rfl, .inr ⟨x, y, c, hd, hy, rfl⟩⟩
  · cases ht
    exact ⟨w, rest, hc, rfl, .inl ⟨⟨why, hd⟩, rfl⟩⟩

/-- Settles O11: a faulted state's first step is the fault, and a PLOT out of range only replaces one fault by
another. -/
theorem faultIsTerminal : Obligations.FaultIsTerminal := by
  refine ⟨fun s f n hf => ?_, fun i s t h hf => ?_⟩
  · have hstep : Sys2Proof.core.step s = .fault (.halted f) := (step_fault_iff s f).mpr hf
    simp only [Host.Core.run, hstep]
  · obtain hk | ⟨x, y, c, rfl, hy⟩ := exec_fault h
    · rw [hk]; exact hf
    · rw [exec_plot_outOfRange hy] at h; cases h; rfl

/-- Settles O55, by what a command can do to `nmi`: the VBlank set cannot lower it, since NMI_EN was 1, and a
WR.CTRL moves it only with VBLANK 1, to the bit it writes. -/
theorem nmiChangesOnlyWhereTheSpecSays : Obligations.NmiChangesOnlyWhereTheSpecSays := by
  intro i s t h
  obtain hkept | ⟨⟨hi, hl, hc⟩, hset⟩ | ⟨hi, hlow⟩ | ⟨d, hi, hwritten⟩ := exec_nmi_cases h
  · rw [hkept]
    exact ⟨fun hs ht => (nomatch hs.symm.trans ht), fun hs ht => nomatch hs.symm.trans ht⟩
  · refine ⟨fun _ ht => .inl ⟨hi, hl, hc, hset ▸ ht⟩, fun hs ht => ?_⟩
    obtain ⟨-, henabled⟩ := Bool.and_eq_true_iff.mp hs
    exact nomatch henabled.symm.trans (hset.symm.trans ht)
  · refine ⟨fun _ ht => (nomatch hlow.symm.trans ht), fun _ _ => ?_⟩
    obtain hi | hi | hi := hi
    · exact .inl hi
    · exact .inr (.inl hi)
    · exact .inr (.inr (.inr hi))
  · refine ⟨fun _ ht => ?_, fun hs ht => .inr (.inr (.inl ⟨d, hi, ?_⟩))⟩
    · obtain ⟨hv, hd⟩ := Bool.and_eq_true_iff.mp (hwritten.symm.trans ht)
      exact .inr ⟨d, hi, hd, hv⟩
    · obtain ⟨hv, -⟩ := Bool.and_eq_true_iff.mp hs
      rw [← ht, hwritten, hv, Bool.true_and]

end Sys2Proof.Machine

/-! PROOFS. Reset and hazards (70_reset_and_hazards.md): the state RESET leaves, and the wait for the driver. -/

namespace Sys2Proof.Machine

/-! ### Waiting for the driver (R502) -/

/-- With no command issued there is none to accept. -/
theorem State.accept_nil {s : State} (h : s.commands = []) : s.accept = none := by
  rw [State.accept, h]

/-- A step that finds no command to accept changes nothing. -/
theorem step_of_accept_none {s : State} (hf : s.fault = none) (ha : s.accept = none) : step s = .next s := by
  simp only [step, hf, ha]

/-! ### The obligations -/

/-- Settles O45: RESET as one update, which clears PPUSTATUS and PPUCTRL and with them `nmi`. -/
theorem resetRestoresEverything : Obligations.ResetRestoresEverything :=
  ⟨decode_encode (i := .reset) rfl, fun s => ⟨_, exec_reset s, rfl, rfl, exec_reset_nmi (exec_reset s)⟩⟩

/-- Settles O7: the empty queue has no command to accept. -/
theorem stepWaitsForTheDriver : Obligations.StepWaitsForTheDriver := fun _ hf hc =>
  step_of_accept_none hf (State.accept_nil hc)

end Sys2Proof.Machine
